-- ==== Sys2Proof/Word.lean ====
section
/-!
DEFINITION. The bit-vector widths of LWM-CORE (00_scope.md R5 `XLEN`, `AMPW`, and 20_memory.md R43).
-/
namespace Sys2Proof

/-- A register, an operand, a result or a command word: `XLEN` = 32 bits (R5, R20). -/
abbrev Word := BitVec 32

/-- An angle, an amplitude or an entry of the quarter-wave table: `AMPW` = 16 bits (R5). -/
abbrev Half := BitVec 16

/-- One byte lane of a word (R43). -/
abbrev Byte := BitVec 8

end Sys2Proof
end

