-- ==== Sys2Proof/Syntax.lean ====
section
/-!
DEFINITION. The command set of LWM-CORE, version 1: one constructor per row of the opcode map
(30_encoding.md R64), with the Q fields the command uses (R63) as arguments. A Q field is the number
of fractional bits, an unsigned integer (R62, 00_scope.md R8). A field a command does not use is no
part of it, because the command ignores it (R66).
-/
namespace Sys2Proof

inductive Instr where
  /-- integer to fixed-point, 40_fixed_point.md R83 -/
  | tofix (qa : Nat)
  /-- fixed-point to integer, R84 -/
  | fromfix (qa : Nat)
  /-- change of Q format, R85 -/
  | qconv (qa qr : Nat)
  /-- same-format add, R86 -/
  | qadd
  /-- same-format subtract, R87 -/
  | qsub
  /-- same-format multiply, R88 -/
  | qmul (qa : Nat)
  /-- same-format divide, R89 -/
  | qdiv (qa : Nat)
  /-- add an integer, R90 -/
  | qaddi (qa : Nat)
  /-- subtract an integer, R91 -/
  | qsubi (qa : Nat)
  /-- multiply by an integer, R92 -/
  | qmuli
  /-- divide by an integer, R93 -/
  | qdivi
  /-- cross-format add, R94 -/
  | gadd (qa qb qr : Nat)
  /-- cross-format subtract, R95 -/
  | gsub (qa qb qr : Nat)
  /-- cross-format multiply, R96 -/
  | gmul (qa qb qr : Nat)
  /-- cross-format divide, R97 -/
  | gdiv (qa qb qr : Nat)
  /-- integer square root, 42_sqrt.md R142 -/
  | isqrt
  /-- fixed-point square root, R143 -/
  | fsqrt (qa : Nat)
  /-- sine and cosine, 41_trig.md R125 -/
  | trig
  /-- Clarke transform, 43_transforms.md R152 -/
  | clarke
  /-- Park transform, R153 -/
  | park
  /-- inverse Park transform, R154 -/
  | revpark
deriving DecidableEq, Repr

end Sys2Proof
end

