-- ==== Sys2Proof/WellFormed.lean ====
section
/-!
DEFINITION. Which commands can be encoded: every Q field they use lies in 0..31 (30_encoding.md R62).
-/
namespace Sys2Proof

/-- A value a 5-bit Q field can hold (30_encoding.md R62; `QW` = 5 of 00_scope.md R5). -/
abbrev QFits (q : Nat) : Prop := q < 32

/-- Every Q field the command uses fits its field of the command word. -/
def Instr.wellFormed : Instr → Bool
  | .tofix qa => QFits qa
  | .fromfix qa => QFits qa
  | .qconv qa qr => QFits qa ∧ QFits qr
  | .qadd => true
  | .qsub => true
  | .qmul qa => QFits qa
  | .qdiv qa => QFits qa
  | .qaddi qa => QFits qa
  | .qsubi qa => QFits qa
  | .qmuli => true
  | .qdivi => true
  | .gadd qa qb qr => QFits qa ∧ QFits qb ∧ QFits qr
  | .gsub qa qb qr => QFits qa ∧ QFits qb ∧ QFits qr
  | .gmul qa qb qr => QFits qa ∧ QFits qb ∧ QFits qr
  | .gdiv qa qb qr => QFits qa ∧ QFits qb ∧ QFits qr
  | .isqrt => true
  | .fsqrt qa => QFits qa
  | .trig => true
  | .clarke => true
  | .park => true
  | .revpark => true

/-- The command can be written as a command word. -/
abbrev Instr.WellFormed (i : Instr) : Prop := i.wellFormed = true

end Sys2Proof
end

