-- ==== Sys2Proof/Decode.lean ====
section
/-!
DEFINITION. The command word (30_encoding.md): its fields, the opcode map, the decoder (total on any
word and on any bytes, rejecting by name) and the encoder.
-/
namespace Sys2Proof

/-- Why a word or a run of bytes is no command. -/
inductive DecodeError where
  /-- a reserved bit (15:13, 23:21 or 31:29) is set (30_encoding.md R61, R67) -/
  | reservedBits
  /-- the opcode, as given, is reserved (R67) -/
  | reservedOpcode (op : Nat)
  /-- a command word is exactly four bytes (R61, R68); as many were given -/
  | wrongLength (bytes : Nat)
deriving DecidableEq, Repr

/-! ### Fields (30_encoding.md R61, R62) -/

/-- `w[lo + len - 1 : lo]` read as an unsigned number (00_scope.md R6). -/
def field (w : Word) (lo len : Nat) : Nat := (w.extractLsb' lo len).toNat

/-- OP, bits 7:0. -/
def opField (w : Word) : Nat := field w 0 8

/-- QA, bits 12:8. -/
def qaField (w : Word) : Nat := field w 8 5

/-- QB, bits 20:16. -/
def qbField (w : Word) : Nat := field w 16 5

/-- QR, bits 28:24. -/
def qrField (w : Word) : Nat := field w 24 5

/-- The reserved bits 15:13, 23:21 and 31:29 are all 0 (R61, R65). -/
def reservedClear (w : Word) : Bool :=
  field w 13 3 = 0 ∧ field w 21 3 = 0 ∧ field w 29 3 = 0

/-! ### The opcode map (30_encoding.md R64) -/

/-- The command an opcode selects, given the three Q fields; it keeps those it uses (R63, R66). -/
def instrOfFields (op qa qb qr : Nat) : Option Instr :=
  match op with
  | 0x01 => some (.tofix qa)
  | 0x02 => some (.fromfix qa)
  | 0x03 => some (.qconv qa qr)
  | 0x08 => some .qadd
  | 0x09 => some .qsub
  | 0x0A => some (.qmul qa)
  | 0x0B => some (.qdiv qa)
  | 0x0C => some (.qaddi qa)
  | 0x0D => some (.qsubi qa)
  | 0x0E => some .qmuli
  | 0x0F => some .qdivi
  | 0x10 => some (.gadd qa qb qr)
  | 0x11 => some (.gsub qa qb qr)
  | 0x12 => some (.gmul qa qb qr)
  | 0x13 => some (.gdiv qa qb qr)
  | 0x18 => some .isqrt
  | 0x19 => some (.fsqrt qa)
  | 0x20 => some .trig
  | 0x21 => some .clarke
  | 0x22 => some .park
  | 0x23 => some .revpark
  | _ => none

/-- A row of opcode_table.json: a word `w` matches it when `w &&& mask = match` (R65). -/
structure OpcodeRow where
  mnemonic : String
  mask : Word
  bits : Word
deriving DecidableEq, Repr

/-- The row of a mnemonic with its opcode; every row has the mask 0xE0E0E0FF (R65). -/
def opcodeRow (mnemonic : String) (op : Nat) : OpcodeRow :=
  ⟨mnemonic, 0xE0E0E0FF#32, BitVec.ofNat 32 op⟩

/-- opcode_table.json, row by row. -/
def opcodeTable : List OpcodeRow :=
  [opcodeRow "TOFIX" 0x01, opcodeRow "FROMFIX" 0x02, opcodeRow "QCONV" 0x03] ++
  [opcodeRow "QADD" 0x08, opcodeRow "QSUB" 0x09, opcodeRow "QMUL" 0x0A, opcodeRow "QDIV" 0x0B] ++
  [opcodeRow "QADDI" 0x0C, opcodeRow "QSUBI" 0x0D, opcodeRow "QMULI" 0x0E, opcodeRow "QDIVI" 0x0F] ++
  [opcodeRow "GADD" 0x10, opcodeRow "GSUB" 0x11, opcodeRow "GMUL" 0x12, opcodeRow "GDIV" 0x13] ++
  [opcodeRow "ISQRT" 0x18, opcodeRow "FSQRT" 0x19] ++
  [opcodeRow "TRIG" 0x20, opcodeRow "CLARKE" 0x21, opcodeRow "PARK" 0x22, opcodeRow "REVPARK" 0x23]

/-- `w` matches the row (R65). -/
def OpcodeRow.accepts (r : OpcodeRow) (w : Word) : Bool := w &&& r.mask = r.bits

/-! ### Decoding -/

/-- The command a word stands for, or why it is illegal (30_encoding.md R65, R67). -/
def decodeWord (w : Word) : Except DecodeError Instr :=
  if reservedClear w then
    match instrOfFields (opField w) (qaField w) (qbField w) (qrField w) with
    | some i => .ok i
    | none => .error (.reservedOpcode (opField w))
  else .error .reservedBits

/-- A word from its four byte lanes, the lowest address first: little-endian (20_memory.md R43). -/
def wordOfBytes (b0 b1 b2 b3 : Byte) : Word := b3 ++ b2 ++ b1 ++ b0

/-- The command that a run of bytes stands for: exactly one word of four bytes (R61, R68). -/
def decodeBytes : List Byte → Except DecodeError Instr
  | [b0, b1, b2, b3] => decodeWord (wordOfBytes b0 b1 b2 b3)
  | bs => .error (.wrongLength bs.length)

/-! ### Encoding -/

/-- The opcode of a command (30_encoding.md R64). -/
def Instr.opcode : Instr → Nat
  | .tofix _ => 0x01
  | .fromfix _ => 0x02
  | .qconv _ _ => 0x03
  | .qadd => 0x08
  | .qsub => 0x09
  | .qmul _ => 0x0A
  | .qdiv _ => 0x0B
  | .qaddi _ => 0x0C
  | .qsubi _ => 0x0D
  | .qmuli => 0x0E
  | .qdivi => 0x0F
  | .gadd _ _ _ => 0x10
  | .gsub _ _ _ => 0x11
  | .gmul _ _ _ => 0x12
  | .gdiv _ _ _ => 0x13
  | .isqrt => 0x18
  | .fsqrt _ => 0x19
  | .trig => 0x20
  | .clarke => 0x21
  | .park => 0x22
  | .revpark => 0x23

/-- The QA field of a command that uses it (30_encoding.md R63). -/
def Instr.qa? : Instr → Option Nat
  | .tofix qa => some qa
  | .fromfix qa => some qa
  | .qconv qa _ => some qa
  | .qadd => none
  | .qsub => none
  | .qmul qa => some qa
  | .qdiv qa => some qa
  | .qaddi qa => some qa
  | .qsubi qa => some qa
  | .qmuli => none
  | .qdivi => none
  | .gadd qa _ _ => some qa
  | .gsub qa _ _ => some qa
  | .gmul qa _ _ => some qa
  | .gdiv qa _ _ => some qa
  | .isqrt => none
  | .fsqrt qa => some qa
  | .trig => none
  | .clarke => none
  | .park => none
  | .revpark => none

/-- The QB field of a command that uses it (R63). -/
def Instr.qb? : Instr → Option Nat
  | .gadd _ qb _ => some qb
  | .gsub _ qb _ => some qb
  | .gmul _ qb _ => some qb
  | .gdiv _ qb _ => some qb
  | .tofix _ | .fromfix _ | .qconv _ _ | .qadd | .qsub | .qmul _ | .qdiv _ | .qaddi _ | .qsubi _ => none
  | .qmuli | .qdivi | .isqrt | .fsqrt _ | .trig | .clarke | .park | .revpark => none

/-- The QR field of a command that uses it (R63). -/
def Instr.qr? : Instr → Option Nat
  | .qconv _ qr => some qr
  | .gadd _ _ qr => some qr
  | .gsub _ _ qr => some qr
  | .gmul _ _ qr => some qr
  | .gdiv _ _ qr => some qr
  | .tofix _ | .fromfix _ | .qadd | .qsub | .qmul _ | .qdiv _ | .qaddi _ | .qsubi _ => none
  | .qmuli | .qdivi | .isqrt | .fsqrt _ | .trig | .clarke | .park | .revpark => none

/-- `(QR << 24) | (QB << 16) | (QA << 8) | OP` (30_encoding.md R69). -/
def packWord (op qa qb qr : Nat) : Word :=
  (BitVec.ofNat 32 qr <<< 24) ||| (BitVec.ofNat 32 qb <<< 16) ||| (BitVec.ofNat 32 qa <<< 8) |||
    BitVec.ofNat 32 op

/-- The word of a well-formed command; a Q field it does not use is 0, as the assembler writes it
(R69). -/
def encode (i : Instr) : Word :=
  packWord i.opcode (i.qa?.getD 0) (i.qb?.getD 0) (i.qr?.getD 0)

/-- The four byte lanes of a word, the lowest address first (20_memory.md R43). -/
def bytesOfWord (w : Word) : List Byte :=
  [w.extractLsb' 0 8, w.extractLsb' 8 8, w.extractLsb' 16 8, w.extractLsb' 24 8]

/-- The bytes of a well-formed command. -/
def encodeBytes (i : Instr) : List Byte := bytesOfWord (encode i)

/-- The command word whose low `nbits` bits are those of `w`, the bits above them 0. -/
def tableWord (nbits w : Nat) : Word := BitVec.ofNat 32 (w % 2 ^ nbits)

/-- The host's question: what the decoder reads from an instruction whose `nbits` bits are `w`. The
word goes through its bytes, as the byte lanes carry it (assumption log 12). -/
def decodeTableWord (nbits w : Nat) : Option Instr :=
  (decodeBytes (bytesOfWord (tableWord nbits w))).toOption

end Sys2Proof
end

