-- ==== Sys2Proof/Machine/State.lean ====
section
/-!
DEFINITION. The state of LWM-CORE (10_state.md), the host's accesses and what they are answered with
(20_memory.md R40, R54), and the state after reset (70_reset_and_hazards.md R190).
-/
namespace Sys2Proof.Machine

/-! ### The host's side of the bus (20_memory.md R40, R54) -/

/-- How many bytes an access moves: `n` in 1, 2 or 4 (20_memory.md R40). -/
inductive AccessSize where
  | byte
  | half
  | word
deriving DecidableEq, Repr

/-- A host access at a bus address (R40). A write's value is its low `n` bytes; the block accepts
only four-byte writes (R42), so the others are never read (assumption log 14). -/
inductive BusAccess where
  /-- `MemRead(addr, n)` -/
  | read (addr : Nat) (size : AccessSize)
  /-- `MemWrite(addr, n, v)` -/
  | write (addr : Nat) (size : AccessSize) (value : Word)
deriving DecidableEq, Repr

/-- What reaches the block at one moment (R54, R56). An access cannot arrive while reset is asserted:
duty H4 of R55 (assumption log 16). -/
inductive HostEvent where
  /-- nothing arrives -/
  | idle
  /-- a bus access arrives -/
  | access (a : BusAccess)
  /-- reset is asserted and deasserted again (70_reset_and_hazards.md R190) -/
  | reset
deriving DecidableEq, Repr

/-- What the host gets back for an access in the window (R54, last column). An access whose command a
reset abandons, or that a reset drops, gets none (assumption log 7 and 22). -/
inductive Reply where
  /-- the value a read returns -/
  | data (v : Word)
  /-- a write has completed -/
  | done
  /-- the bus error of 60_exceptions.md R178, which carries no data -/
  | busError
deriving DecidableEq, Repr

/-! ### The state -/

structure State where
  /-- STATUS bit 0, FAULT (10_state.md R22) -/
  fault : Bool
  /-- STATUS bits 7:4, CAUSE (R22, 60_exceptions.md R171) -/
  cause : BitVec 4
  /-- CMD: the last command word the host wrote (R24) -/
  cmd : Word
  /-- operand A (R25) -/
  opa : Word
  /-- operand B (R25) -/
  opb : Word
  /-- operand C (R25) -/
  opc : Word
  /-- result 0 (R26) -/
  res0 : Word
  /-- result 1 (R26) -/
  res1 : Word
  /-- the in-flight command: stored by a CMD write, not yet run (R31, 20_memory.md R50) -/
  inFlight : Option Word
  /-- accesses that have arrived and are not yet performed, oldest first (20_memory.md R50) -/
  held : List BusAccess
  /-- the model's own: what is still to arrive, one event a step (R56; assumption log 5) -/
  inputs : List HostEvent
  /-- the model's own: what the host got back, newest first (R54; assumption log 5) -/
  replies : List Reply
deriving DecidableEq, Repr

/-- Why the model would stop. No case of LWM-CORE stops it: every command word executes or takes a
fault that goes on (30_encoding.md R67, 60_exceptions.md R170), a bus error is a reply (R178), and
93_implementation_defined.md says that no case is stuck. So this type has no constructor; safe. -/
inductive Fault where
deriving DecidableEq, Repr

/-- Why the model would give an instruction no meaning. -/
inductive Refusal where
  /-- An instruction without a meaning, raised by an arm of `exec`. No arm raises it: every command
  of the opcode map has its meaning. Safe. -/
  | notModelled (mnemonic : String)
deriving DecidableEq, Repr

/-- The outcome of a meaning or of a step. -/
abbrev Result := Host.Outcome State Fault Refusal

/-- The state when reset is deasserted (70_reset_and_hazards.md R190). The model's own `inputs` and
`replies` are empty: nothing has been put before the block yet (DESIGN CHOICE, assumption log 5). -/
def State.reset : State where
  fault := false
  cause := 0#4
  cmd := 0#32
  opa := 0#32
  opb := 0#32
  opc := 0#32
  res0 := 0#32
  res1 := 0#32
  inFlight := none
  held := []
  inputs := []
  replies := []

end Sys2Proof.Machine
end

