-- ==== Sys2Proof/Machine/Flags.lean ====
section
/-!
DEFINITION. STATUS. LWM-CORE has no arithmetic flags (10_state.md R30): no command computes a carry,
an overflow or a saturation. What it has is the fault report of STATUS (R22), its cause codes
(60_exceptions.md R171), fault entry (R172) and the host's clear (10_state.md R23).
-/
namespace Sys2Proof.Machine

/-- The causes a command can raise (60_exceptions.md R171). -/
inductive FaultCause where
  /-- the command word is not legal (R173) -/
  | illegalCmd
  /-- the effective divisor is 0 (R174) -/
  | divZero
deriving DecidableEq, Repr

/-- STATUS.CAUSE for a cause: 1 or 2; 0 means no fault, 3 to 15 are never produced (R171). -/
def causeCode : FaultCause → BitVec 4
  | .illegalCmd => 1#4
  | .divZero => 2#4

/-- STATUS as the host reads it: FAULT in bit 0, CAUSE in bits 7:4, every other bit 0
(10_state.md R22). -/
def State.statusWord (s : State) : Word :=
  0#24 ++ s.cause ++ 0#3 ++ BitVec.ofBool s.fault

/-- Fault entry: STATUS takes the cause of the first fault since the last clear and keeps it; nothing
else changes, no result is written (60_exceptions.md R170, R172). -/
def raiseFault (c : FaultCause) (s : State) : State :=
  if s.fault then s else { s with fault := true, cause := causeCode c }

/-- A host write of `v` to STATUS: bit 0 set clears FAULT and CAUSE, everything else is ignored
(10_state.md R23). -/
def writeStatus (v : Word) (s : State) : State :=
  if v.getLsbD 0 then { s with fault := false, cause := 0#4 } else s

end Sys2Proof.Machine
end

