-- ==== Sys2Proof/Config.lean ====
section
/-!
DEFINITION. The OPEN parameters of the block (00_scope.md R5): what a platform or the builder of the
block fixes and the spec does not. They have no body, so a claim that holds of the model holds for
every value of them. `LAT` is not here: no rule depends on it (R197; assumption log 4 and 18).
-/
namespace Sys2Proof.Config

/-- Which 64-byte slot of the host's bus the register window occupies (20_memory.md R41).
Free: assumption log 1. -/
opaque windowIndex : Nat

/-- `BASE`, the bus address of the register window: OPEN, a multiple of 64 (R41, decision D37). -/
def base : Nat := 64 * windowIndex

/-- The raw contents of the table ROM, OPEN (41_trig.md R120, decision D15). The table the block
reads is this one shaped to the settled constraints of R121: `Sys2Proof.Machine.sinTable`.
Free: assumption log 2. -/
opaque sinTableFree : BitVec 8 → Half

end Sys2Proof.Config
end

