-- ==== Sys2Proof/Machine/Operands.lean ====
section
/-!
DEFINITION. The arithmetic primitives of 00_scope.md R7 and R9, the operand forms of 10_state.md R25
and R27, and the saturating narrowing of 43_transforms.md R151. Arithmetic is over the integers; every
narrowing is written with one of these functions (R6).
-/
namespace Sys2Proof.Machine

/-! ### Primitives (00_scope.md R7) -/

/-- `wrap_N(x)`: the integer congruent to `x` modulo `2^n` in the signed range of `n` bits (R7). -/
def wrap (n : Nat) (x : Int) : Int := Int.bmod x (2 ^ n)

/-- `bits_N(x)`: the `n`-bit two's-complement vector of `wrap_N(x)` (R7). -/
def bits (n : Nat) (x : Int) : BitVec n := BitVec.ofInt n x

/-- `asr(x, s)`: the floor of `x / 2^s` (R7). -/
def asr (x : Int) (s : Nat) : Int := Int.fdiv x (2 ^ s)

/-- `shl(x, s)`: `x * 2^s`, exact (R7). -/
def shl (x : Int) (s : Nat) : Int := x * 2 ^ s

/-- `tdiv(a, b)`: the quotient rounded toward zero; used with `b ≠ 0` (R7, decision D6). -/
def tdiv (a b : Int) : Int := Int.tdiv a b

/-- `clamp(x, lo, hi)` (R7). -/
def clamp (x lo hi : Int) : Int := if x < lo then lo else if hi < x then hi else x

/-! ### Format conversion (00_scope.md R9) -/

/-- `conv32(v, qf, qt)`: a 32-bit value from format `qf` to `qt`; the left shift wraps, the right
shift floors (R9, decision D11). -/
def conv32 (v : Int) (qf qt : Nat) : Int :=
  if qf < qt then wrap 32 (shl v (qt - qf)) else asr v (qf - qt)

/-- `conv_exact(p, qf, qt)`: the same shift of an exact integer, without wrap (R9). -/
def convExact (p : Int) (qf qt : Nat) : Int :=
  if qf < qt then shl p (qt - qf) else asr p (qf - qt)

/-! ### Narrowing to an amplitude (43_transforms.md R151) -/

/-- The nudge: -32768 becomes -32767 (R151). -/
def nudge (y : Int) : Int := if y = -32768 then -32767 else y

/-- `sat16n(x)`: clamp to the signed 16-bit range, then nudge (R151). -/
def sat16n (x : Int) : Int := nudge (clamp x (-32768) 32767)

/-! ### Operands (10_state.md R25, R27) -/

/-- `sext_32(x[R])`: a register as a 32-bit fixed-point value or integer (R25). -/
def op32 (r : Word) : Int := r.toInt

/-- `op16(R) = sext_16(x[R][15:0])`: a register as an angle or amplitude; bits 31:16 are ignored
(R27). -/
def op16 (r : Word) : Int := (r.extractLsb' 0 16).toInt

end Sys2Proof.Machine
end

