-- ==== Sys2Proof/Machine/Ops.lean ====
section
/-!
DEFINITION. The named operations over the block's registers: results of a command (10_state.md R26,
R28), the register window as the host reaches it (20_memory.md R41 to R46), the performing of one
access (R50), and reset (70_reset_and_hazards.md R190). Taking a fault is `raiseFault` of
Machine/Flags.lean; the return from one is the host's clear, `writeStatus` there.
-/
namespace Sys2Proof.Machine

/-! ### Results -/

/-- `x[RES0] <- bits_32(r)`: a one-result command; RES1 keeps its value (10_state.md R26). -/
def writeRes0 (r : Int) (s : State) : State := { s with res0 := bits 32 r }

/-- Both results of a two-result command, in one completion (10_state.md R26, R28). -/
def writeResults (r0 r1 : Int) (s : State) : State :=
  { s with res0 := bits 32 r0, res1 := bits 32 r1 }

/-! ### The register window -/

/-- The registers of 10_state.md R20 by name. -/
inductive Reg where
  | id
  | status
  | cmd
  | opa
  | opb
  | opc
  | res0
  | res1
deriving DecidableEq, Repr

/-- The byte offset of a register (10_state.md R20). -/
def Reg.offset : Reg → Nat
  | .id => 0x00
  | .status => 0x04
  | .cmd => 0x08
  | .opa => 0x10
  | .opb => 0x14
  | .opc => 0x18
  | .res0 => 0x20
  | .res1 => 0x24

/-- The register at an offset; none at a reserved offset (10_state.md R20). -/
def regAt (off : Nat) : Option Reg :=
  match off with
  | 0x00 => some .id
  | 0x04 => some .status
  | 0x08 => some .cmd
  | 0x10 => some .opa
  | 0x14 => some .opb
  | 0x18 => some .opc
  | 0x20 => some .res0
  | 0x24 => some .res1
  | _ => none

/-- What a read of a register returns; ID is hard-wired (10_state.md R20, R21, R22). -/
def readReg (r : Reg) (s : State) : Word :=
  match r with
  | .id => idValue
  | .status => s.statusWord
  | .cmd => s.cmd
  | .opa => s.opa
  | .opb => s.opb
  | .opc => s.opc
  | .res0 => s.res0
  | .res1 => s.res1

/-- What a read at an offset returns: a reserved offset reads 0 (20_memory.md R44). -/
def readOffset (off : Nat) (s : State) : Word :=
  match regAt off with
  | some r => readReg r s
  | none => 0#32

/-- Give the host a reply. -/
def reply (r : Reply) (s : State) : State := { s with replies := r :: s.replies }

/-- The first part of a CMD write: the word is stored, and its command is in flight
(10_state.md R24, 20_memory.md R50). -/
def startCommand (w : Word) (s : State) : State := { s with cmd := w, inFlight := some w }

/-- A four-byte write to a register. The completion of a CMD write is reported when its command
completes (20_memory.md R54 X3); ID, RES0 and RES1 ignore the write (R44). -/
def writeReg (r : Reg) (v : Word) (s : State) : State :=
  match r with
  | .id => reply .done s
  | .status => reply .done (writeStatus v s)
  | .cmd => startCommand v s
  | .opa => reply .done { s with opa := v }
  | .opb => reply .done { s with opb := v }
  | .opc => reply .done { s with opc := v }
  | .res0 => reply .done s
  | .res1 => reply .done s

/-- A four-byte write at an offset: a reserved offset ignores it (20_memory.md R44). -/
def writeOffset (off : Nat) (v : Word) (s : State) : State :=
  match regAt off with
  | some r => writeReg r v s
  | none => reply .done s

/-! ### Performing an access (20_memory.md R40 to R45, R50) -/

/-- The bus address of an access. -/
def BusAccess.addr : BusAccess → Nat
  | .read a _ => a
  | .write a _ _ => a

/-- The width of an access. -/
def BusAccess.size : BusAccess → AccessSize
  | .read _ n => n
  | .write _ n _ => n

/-- The address lies in the register window: 64 bytes from BASE (20_memory.md R41). -/
def inWindow (addr : Nat) : Bool := Config.base ≤ addr ∧ addr < Config.base + 0x40

/-- The offset an address in the window reaches (R41). -/
def windowOffset (addr : Nat) : Nat := addr - Config.base

/-- The block accepts the access: four bytes at an offset that is a multiple of 4 (R42). -/
def accepted (a : BusAccess) : Bool := a.size = .word ∧ windowOffset a.addr % 4 = 0

/-- Perform one access whose turn has come. Outside the window the block does not answer (R40;
assumption log 8); one it does not accept gets a bus error and does nothing else (R42,
60_exceptions.md R178; assumption log 9). -/
def performAccess (a : BusAccess) (s : State) : State :=
  if inWindow a.addr then
    if accepted a then
      match a with
      | .read addr _ => reply (.data (readOffset (windowOffset addr) s)) s
      | .write addr _ v => writeOffset (windowOffset addr) v s
    else reply .busError s
  else s

/-! ### What arrives, and reset -/

/-- An access arrives: it waits behind those that arrived before it (20_memory.md R50). -/
def arrive (a : BusAccess) (s : State) : State := { s with held := s.held ++ [a] }

/-- Reset: every register takes its reset value, an in-flight command is abandoned and the accesses
held by it are not performed (70_reset_and_hazards.md R190). What has not arrived yet still arrives,
and what the host already got stays with it (DEDUCED, assumption log 7). The CMD write of an abandoned
command gets no reply (DESIGN CHOICE, assumption log 22). -/
def resetBlock (s : State) : State :=
  { State.reset with inputs := s.inputs, replies := s.replies }

/-- The oldest held access is performed, if there is one; else the block does nothing
(20_memory.md R50, 60_exceptions.md R185). -/
def performHeld (s : State) : State :=
  match s.held with
  | [] => s
  | a :: rest => performAccess a { s with held := rest }

end Sys2Proof.Machine
end

