-- ==== Sys2Proof/Machine/FixedPoint.lean ====
section
/-!
DEFINITION. The fifteen fixed-point commands (40_fixed_point.md): operands by `sext_32` of OPA and OPB,
one result in RES0, everything else unchanged (R80); results wrap, scaling right shifts floor,
divisions truncate (R82).
-/
namespace Sys2Proof.Machine

/-! ### Shared operations -/

/-- A one-result fixed-point command completes: the exact result is wrapped to 32 bits and written to
RES0 (40_fixed_point.md R80, R82). -/
def completeFixed (r : Int) (s : State) : Result := .next (writeRes0 (wrap 32 r) s)

/-- A dividing command: DIV_ZERO when the effective divisor is 0, else the quotient of the exact
dividend, rounded toward zero (40_fixed_point.md R89, R93, R97, R98; 60_exceptions.md R174). -/
def completeDivide (n d : Int) (s : State) : Result :=
  if d = 0 then .next (raiseFault .divZero s) else completeFixed (tdiv n d) s

/-! ### Conversions -/

/-- TOFIX: `n * 2^QA` (R83). -/
def execTofix (qa : Nat) (s : State) : Result := completeFixed (shl (op32 s.opa) qa) s

/-- FROMFIX: `floor(f / 2^QA)` (R84). -/
def execFromfix (qa : Nat) (s : State) : Result := completeFixed (asr (op32 s.opa) qa) s

/-- QCONV: from QA to QR (R85). -/
def execQconv (qa qr : Nat) (s : State) : Result := completeFixed (conv32 (op32 s.opa) qa qr) s

/-! ### Same-format operators -/

/-- QADD (R86). -/
def execQadd (s : State) : Result := completeFixed (op32 s.opa + op32 s.opb) s

/-- QSUB (R87). -/
def execQsub (s : State) : Result := completeFixed (op32 s.opa - op32 s.opb) s

/-- QMUL: the exact product, rescaled by QA (R88). -/
def execQmul (qa : Nat) (s : State) : Result :=
  completeFixed (asr (op32 s.opa * op32 s.opb) qa) s

/-- QDIV: the dividend is shifted left by QA, exactly, before the division (R89). -/
def execQdiv (qa : Nat) (s : State) : Result :=
  completeDivide (shl (op32 s.opa) qa) (op32 s.opb) s

/-! ### Integer-mixed operators -/

/-- QADDI: the integer of OPB, shifted into QA with wrap, is added (R90). -/
def execQaddi (qa : Nat) (s : State) : Result :=
  completeFixed (op32 s.opa + wrap 32 (shl (op32 s.opb) qa)) s

/-- QSUBI: the integer of OPB, shifted into QA with wrap, is subtracted (R91). -/
def execQsubi (qa : Nat) (s : State) : Result :=
  completeFixed (op32 s.opa - wrap 32 (shl (op32 s.opb) qa)) s

/-- QMULI: scalar product (R92). -/
def execQmuli (s : State) : Result := completeFixed (op32 s.opa * op32 s.opb) s

/-- QDIVI: scalar quotient (R93). -/
def execQdivi (s : State) : Result := completeDivide (op32 s.opa) (op32 s.opb) s

/-! ### Cross-format operators -/

/-- GADD: both operands converted to QR, then added (R94). -/
def execGadd (qa qb qr : Nat) (s : State) : Result :=
  completeFixed (conv32 (op32 s.opa) qa qr + conv32 (op32 s.opb) qb qr) s

/-- GSUB: both operands converted to QR, then subtracted (R95). -/
def execGsub (qa qb qr : Nat) (s : State) : Result :=
  completeFixed (conv32 (op32 s.opa) qa qr - conv32 (op32 s.opb) qb qr) s

/-- GMUL: the exact product, of format QA + QB, converted to QR (R96). -/
def execGmul (qa qb qr : Nat) (s : State) : Result :=
  completeFixed (convExact (op32 s.opa * op32 s.opb) (qa + qb) qr) s

/-- GDIV: both operands converted to QR, then the same-format divide of R89 in QR; DIV_ZERO is on the
converted divisor (R97). -/
def execGdiv (qa qb qr : Nat) (s : State) : Result :=
  completeDivide (shl (conv32 (op32 s.opa) qa qr) qr) (conv32 (op32 s.opb) qb qr) s

end Sys2Proof.Machine
end

