-- ==== Sys2Proof/Machine/Sqrt.lean ====
section
/-!
DEFINITION. The integer square root and its two commands (42_sqrt.md).
-/
namespace Sys2Proof.Machine

/-- The next guess: `floor((g + floor(x / g)) / 2)` (42_sqrt.md R141); `x` and `g` are positive. -/
def sqrtNext (x g : Int) : Int := (g + x / g) / 2

/-- The loop with `k` iterations left: it returns the guess when the next one equals it, and the last
computed value at the cap (R141, decision D13). -/
def sqrtLoop (x : Int) : Nat → Int → Int
  | 0, g => g
  | k + 1, g => if sqrtNext x g = g then g else sqrtLoop x k (sqrtNext x g)

/-- The seed of the iteration; the test is inclusive (R141). -/
def sqrtSeed (x : Int) : Int := if x ≤ 2097152 then 128 else 8192

/-- `isqrt(x)`: 0 for a non-positive input, else at most `NITER` iterations from the seed (R141). -/
def isqrt (x : Int) : Int := if x ≤ 0 then 0 else sqrtLoop x niter (sqrtSeed x)

/-- ISQRT (R142). -/
def execIsqrt (s : State) : Result := .next (writeRes0 (isqrt (op32 s.opa)) s)

/-- FSQRT: the pre-shift by QA wraps in 32 bits (R143, decision D12). -/
def execFsqrt (qa : Nat) (s : State) : Result :=
  .next (writeRes0 (isqrt (wrap 32 (shl (op32 s.opa) qa))) s)

end Sys2Proof.Machine
end

