-- ==== Sys2Proof/Machine/Trig.lean ====
section
/-!
DEFINITION. The quarter-wave table, the angle index and TRIG (41_trig.md).
-/
namespace Sys2Proof.Machine

/-! ### The table (41_trig.md R120, R121) -/

/-- What the spec settles of a table: items 1 to 4 of R121 (the type gives item 1), and the lower
bound that R127 and 90_conflicts.md C2 give every entry. Item 5 of R121 is not assumed
(assumption log 2). -/
def SinTable.Conforms (T : SinTable) : Prop :=
  T 0#8 = 0#16 ∧ T 255#8 = 0x7FFE#16 ∧ ∀ i, -0x7FFE ≤ (T i).toInt ∧ (T i).toInt ≤ 0x7FFE

/-- A raw table brought into the constraints: the settled entries as settled, an entry out of range
replaced by 0. It leaves a conforming table as it is, so every conforming table is some shaped one. -/
def shapeTable (raw : SinTable) : SinTable := fun i =>
  if i = 0#8 then 0#16
  else if i = 255#8 then 0x7FFE#16
  else if -0x7FFE ≤ (raw i).toInt ∧ (raw i).toInt ≤ 0x7FFE then raw i
  else 0#16

/-- `SIN_TABLE`, the table ROM of the block (10_state.md R29, 41_trig.md R120): read only, never
reset. -/
def sinTable : SinTable := shapeTable Config.sinTableFree

/-! ### The index (41_trig.md R124) -/

/-- `idx`: the angle shifted to 0..65535 and divided by 64, a 10-bit number (R124). -/
def trigIndex (a : Int) : BitVec 10 := BitVec.ofInt 10 (Int.fdiv (a + 32768) 64)

/-- `s = idx[9:8]`, the quadrant selector (R124). -/
def trigSelector (a : Int) : BitVec 2 := (trigIndex a).extractLsb' 8 2

/-- `i = idx[7:0]`, the table index (R124). -/
def trigEntry (a : Int) : BitVec 8 := (trigIndex a).extractLsb' 0 8

/-! ### The evaluator (41_trig.md R125) -/

/-- `trig(a)` over a table: cosine and sine, by quadrant (R123, R125; 90_conflicts.md C1). The mirror
is `255 - i` (R129). -/
def trigWith (T : SinTable) (a : Int) : Int × Int :=
  let i := trigEntry a
  let here := (T i).toInt
  let mirrored := (T (255#8 - i)).toInt
  match (trigSelector a).toNat with
  | 0b10 => (mirrored, here)      -- P = 0, [0°, 90°)
  | 0b11 => (-here, mirrored)     -- P = 1, [90°, 180°)
  | 0b00 => (-mirrored, -here)    -- P = 2, [-180°, -90°)
  | _ => (here, -mirrored)        -- 0b01: P = 3, [-90°, 0°)

/-- `trig(a)` of the block: over its own table (R125). -/
def trig (a : Int) : Int × Int := trigWith sinTable a

/-- TRIG over a table. -/
def trigResults (T : SinTable) (s : State) : State :=
  let p := trigWith T (op16 s.opa)
  writeResults p.1 p.2 s

/-- TRIG: RES0 = cosine, RES1 = sine of the angle in OPA (R125). -/
def execTrig (s : State) : Result := .next (trigResults sinTable s)

end Sys2Proof.Machine
end

