-- ==== Sys2Proof/Machine/Transforms.lean ====
section
/-!
DEFINITION. The Clarke, Park and inverse Park transforms (43_transforms.md): exact intermediates,
`asr(·, 15)` for every "/ 32768" (R150), both results written, no flag and no fault.
-/
namespace Sys2Proof.Machine

/-! ### Clarke -/

/-- The sum of CLARKE, `-ta - tb - tb`: `-(2 b + a)` times 1/sqrt(3) in Q1.15, exact (R152). -/
def clarkeSum (a b : Int) : Int := -(a * ksq3) - b * ksq3 - b * ksq3

/-- The raw beta: the sum, rescaled (R152). -/
def clarkeRaw (a b : Int) : Int := asr (clarkeSum a b) 15

/-- CLARKE: alpha is `a`, beta saturates and is nudged (R152). -/
def execClarke (s : State) : Result :=
  .next (writeResults (op16 s.opa) (sat16n (clarkeRaw (op16 s.opa) (op16 s.opb))) s)

/-! ### Park -/

/-- The sums of PARK for alpha, beta, cosine and sine, exact (R153). -/
def parkSums (al be c s : Int) : Int × Int := (al * c - be * s, al * s + be * c)

/-- The rescaled q and d before narrowing (R153). -/
def parkRaw (al be c s : Int) : Int × Int :=
  (asr (parkSums al be c s).1 15, asr (parkSums al be c s).2 15)

/-- PARK over a table: q and d saturate and are nudged (R153). -/
def parkResults (T : SinTable) (st : State) : State :=
  let cs := trigWith T (op16 st.opc)
  let qd := parkRaw (op16 st.opa) (op16 st.opb) cs.1 cs.2
  writeResults (sat16n qd.1) (sat16n qd.2) st

/-- PARK (R153). -/
def execPark (s : State) : Result := .next (parkResults sinTable s)

/-! ### Inverse Park -/

/-- The sums of REVPARK for q, d, cosine and sine, exact (R154). -/
def revparkSums (q d c s : Int) : Int × Int := (q * c + d * s, d * c - q * s)

/-- The rescaled alpha and beta before narrowing (R154). -/
def revparkRaw (q d c s : Int) : Int × Int :=
  (asr (revparkSums q d c s).1 15, asr (revparkSums q d c s).2 15)

/-- REVPARK over a table: both results keep their low 16 bits, with no saturation and no nudge (R154;
90_conflicts.md C5). -/
def revparkResults (T : SinTable) (st : State) : State :=
  let cs := trigWith T (op16 st.opc)
  let ab := revparkRaw (op16 st.opa) (op16 st.opb) cs.1 cs.2
  writeResults (wrap 16 ab.1) (wrap 16 ab.2) st

/-- REVPARK (R154). -/
def execRevpark (s : State) : Result := .next (revparkResults sinTable s)

end Sys2Proof.Machine
end

