-- ==== Sys2Proof/Machine/Dispatch.lean ====
section
/-! DEFINITION. The meaning of every command of 30_encoding.md R64, one arm per constructor. -/
namespace Sys2Proof.Machine

def exec (i : Instr) (s : State) : Host.Outcome State Fault Refusal :=
  match i with
  | .tofix qa => Sys2Proof.Machine.execTofix qa s
  | .fromfix qa => Sys2Proof.Machine.execFromfix qa s
  | .qconv qa qr => Sys2Proof.Machine.execQconv qa qr s
  | .qadd => Sys2Proof.Machine.execQadd s
  | .qsub => Sys2Proof.Machine.execQsub s
  | .qmul qa => Sys2Proof.Machine.execQmul qa s
  | .qdiv qa => Sys2Proof.Machine.execQdiv qa s
  | .qaddi qa => Sys2Proof.Machine.execQaddi qa s
  | .qsubi qa => Sys2Proof.Machine.execQsubi qa s
  | .qmuli => Sys2Proof.Machine.execQmuli s
  | .qdivi => Sys2Proof.Machine.execQdivi s
  | .gadd qa qb qr => Sys2Proof.Machine.execGadd qa qb qr s
  | .gsub qa qb qr => Sys2Proof.Machine.execGsub qa qb qr s
  | .gmul qa qb qr => Sys2Proof.Machine.execGmul qa qb qr s
  | .gdiv qa qb qr => Sys2Proof.Machine.execGdiv qa qb qr s
  | .isqrt => Sys2Proof.Machine.execIsqrt s
  | .fsqrt qa => Sys2Proof.Machine.execFsqrt qa s
  | .trig => Sys2Proof.Machine.execTrig s
  | .clarke => Sys2Proof.Machine.execClarke s
  | .park => Sys2Proof.Machine.execPark s
  | .revpark => Sys2Proof.Machine.execRevpark s

end Sys2Proof.Machine
end

