-- ==== Sys2Proof/Machine/Run.lean ====
section
/-!
DEFINITION. Running the in-flight command, and one moment of the block (20_memory.md R50,
30_encoding.md R60). `step` of Machine/Step.lean only calls these.
-/
namespace Sys2Proof.Machine

/-- Run a command word to completion: an illegal word takes ILLEGAL_CMD before any operand is read,
a legal one executes (30_encoding.md R60, R65; 60_exceptions.md R173, R176). -/
def runWord (w : Word) (s : State) : Result :=
  match decodeWord w with
  | .ok i => exec i s
  | .error _ => .next (raiseFault .illegalCmd s)

/-- The in-flight command leaves flight, and its CMD write is answered (20_memory.md R50, R54 X3). -/
def retire (s : State) : State := reply .done { s with inFlight := none }

/-- With nothing more arriving in this step: the command in flight completes; with none, the oldest
held access is performed (20_memory.md R50). -/
def advance (s : State) : Result :=
  match s.inFlight with
  | some w => runWord w (retire s)
  | none => .next (performHeld s)

/-- One moment: one event arrives, or none, and then the block advances. Reset comes before all else
and abandons what is in flight (70_reset_and_hazards.md R190; assumption log 6). -/
def tick (s : State) : Result :=
  match s.inputs with
  | [] => advance s
  | .idle :: rest => advance { s with inputs := rest }
  | .access a :: rest => advance (arrive a { s with inputs := rest })
  | .reset :: rest => .next (resetBlock { s with inputs := rest })

/-- A command word whose CMD write has just been performed, with nothing arriving in the next step:
the next step runs it (assumption log 15). -/
def loadCommand (w : Word) (s : State) : State :=
  { startCommand w s with inputs := .idle :: s.inputs }

end Sys2Proof.Machine
end

