-- ==== Sys2Proof/Machine/Step.lean ====
section
/-!
DEFINITION. One step of LWM-CORE, and where the host places a command for the next step to run.
-/
namespace Sys2Proof.Machine

/-- One step of the machine (20_memory.md R50). -/
def step (s : State) : Host.Outcome State Fault Refusal := tick s

/-- `s` with the command word `w` (its low `nbits` bits) in flight, so that the next step runs it. -/
def State.withFetchWord (s : State) (nbits w : Nat) : State := loadCommand (tableWord nbits w) s

end Sys2Proof.Machine
end

