-- ==== Sys2Proof/Machine/HostProgram.lean ====
section
/-!
DEFINITION. The assembler syntax, host programs and pseudo-instructions of 30_encoding.md R69 to R71: how
a host writes the accesses that reach the block. The host's own control flow is not part of the block
(R70), so a program here is the list of bus operations it issues.
-/
namespace Sys2Proof.Machine

/-! ### Command syntax (30_encoding.md R69) -/

/-- A command as written: a mnemonic and the Q fields given. -/
structure AsmLine where
  mnemonic : String
  qa : Option Nat := none
  qb : Option Nat := none
  qr : Option Nat := none
deriving DecidableEq, Repr

/-- Why the assembler refuses a line (R69). -/
inductive AsmError where
  /-- no such command -/
  | unknownMnemonic
  /-- a Q field the command does not use is given -/
  | unusedField
  /-- a Q value outside 0..31 -/
  | qOutOfRange
deriving DecidableEq, Repr

/-- The command a line names, an omitted Q field as 0 (R69). -/
def asmInstr (l : AsmLine) : Option Instr :=
  (opcodeTable.find? fun r => r.mnemonic == l.mnemonic).bind fun r =>
    instrOfFields r.bits.toNat (l.qa.getD 0) (l.qb.getD 0) (l.qr.getD 0)

/-- Every Q field the line gives is one the command uses (R69, R63). -/
def asmFieldsUsed (l : AsmLine) (i : Instr) : Bool :=
  (l.qa.isNone || i.qa?.isSome) && (l.qb.isNone || i.qb?.isSome) && (l.qr.isNone || i.qr?.isSome)

/-- The command word of a line, or why the assembler refuses it (R69). A line with several faults is
refused for the first of them in the order written here (assumption log 19). -/
def assemble (l : AsmLine) : Except AsmError Word :=
  match asmInstr l with
  | none => .error .unknownMnemonic
  | some i =>
    if asmFieldsUsed l i then
      if i.wellFormed then .ok (encode i) else .error .qOutOfRange
    else .error .unusedField

/-! ### Host programs (30_encoding.md R70) -/

/-- A bus operation of a host program. -/
inductive HostOp where
  /-- `wr <REG>, <value>`; with CMD, the value is a command word -/
  | wr (r : Reg) (v : Word)
  /-- `rd <REG> -> <name>`: the value comes back as a reply -/
  | rd (r : Reg)
deriving DecidableEq, Repr

/-- The access an operation stands for, at `BASE + offset` with four bytes (R70). -/
def HostOp.access : HostOp → BusAccess
  | .wr r v => .write (Config.base + r.offset) .word v
  | .rd r => .read (Config.base + r.offset) .word

/-- A host program put before the block: its accesses arrive one after another (20_memory.md R56;
assumption log 5). -/
def State.withProgram (s : State) (ops : List HostOp) : State :=
  { s with inputs := s.inputs ++ ops.map fun o => .access o.access }

/-! ### Pseudo-instructions (30_encoding.md R71) -/

/-- `call1 M fields, a` for the command word `w`. -/
def call1 (w a : Word) : List HostOp := [.wr .opa a, .wr .cmd w]

/-- `call2 M fields, a, b`. -/
def call2 (w a b : Word) : List HostOp := [.wr .opa a, .wr .opb b, .wr .cmd w]

/-- `call3 M fields, a, b, c`. -/
def call3 (w a b c : Word) : List HostOp := [.wr .opa a, .wr .opb b, .wr .opc c, .wr .cmd w]

/-- `result r0`. -/
def result : List HostOp := [.rd .res0]

/-- `result2 r0, r1`. -/
def result2 : List HostOp := [.rd .res0, .rd .res1]

/-- `clrfault`. -/
def clrfault : List HostOp := [.wr .status 1#32]

/-- `checkfault s`. -/
def checkfault : List HostOp := [.rd .status]

end Sys2Proof.Machine
end

