-- ==== Sys2Proof/Safety.lean ====
section
/-!
DEFINITION. What counts as a sound state and as a finished run of LWM-CORE, and the order in which the
spec says accesses take effect, in the terms the statements use.
-/
namespace Sys2Proof.Machine

/-- STATUS is one the block can show: no fault and cause 0, or a fault with a cause that is produced
(10_state.md R22, 60_exceptions.md R171). -/
abbrev StatusLegal (s : State) : Prop :=
  if s.fault then s.cause = causeCode .illegalCmd ∨ s.cause = causeCode .divZero else s.cause = 0#4

/-- The command in flight, if there is one, is the word CMD holds: no access is performed between the
CMD write and the completion of its command (10_state.md R24, R31; 20_memory.md R50). -/
abbrev InFlightIsCmd (s : State) : Prop := s.inFlight = none ∨ s.inFlight = some s.cmd

/-- The invariant of the block's state. -/
abbrev BlockInv (s : State) : Prop := StatusLegal s ∧ InFlightIsCmd s

/-- The run has ended: nothing is left to arrive, nothing is held, no command is in flight
(20_memory.md R56). -/
abbrev RunEnded (s : State) : Prop := s.inputs = [] ∧ s.held = [] ∧ s.inFlight = none

/-- `s` after `k` steps is `t`. -/
abbrev RunsTo (k : Nat) (s t : State) : Prop := Sys2Proof.core.run k s = .next t

/-- The two states agree on every register, on the in-flight command and on what the host got back:
on all but what is held and what is still to arrive. -/
abbrev SameBlock (s t : State) : Prop :=
  { s with held := [], inputs := [] } = { t with held := [], inputs := [] }

/-- A word is legal: its OP is one of the opcode map and its reserved bits are 0 (30_encoding.md R64,
R65). Written from the rule, apart from the decoder. -/
abbrev LegalWord (w : Word) : Prop :=
  (w.extractLsb' 0 8).toNat ∈
    [0x01, 0x02, 0x03, 0x08, 0x09, 0x0A, 0x0B, 0x0C, 0x0D, 0x0E, 0x0F, 0x10, 0x11, 0x12, 0x13,
      0x18, 0x19, 0x20, 0x21, 0x22, 0x23] ∧
  w.extractLsb' 13 3 = 0#3 ∧ w.extractLsb' 21 3 = 0#3 ∧ w.extractLsb' 29 3 = 0#3

/-- The command in flight, if there is one, runs to completion at once. -/
def finishInFlight (s : State) : State :=
  match s.inFlight with
  | none => s
  | some w =>
    match runWord w (retire s) with
    | .next t => t
    | .fault _ => s
    | .refused _ => s

/-- An access performed as the spec orders it: a CMD write and its command together, with nothing
between them (20_memory.md R50, 30_encoding.md R60). -/
def performWhole (a : BusAccess) (s : State) : State := finishInFlight (performAccess a s)

/-- The accesses among a list of events, in order. -/
def accessesOf : List HostEvent → List BusAccess
  | [] => []
  | .idle :: es => accessesOf es
  | .access a :: es => a :: accessesOf es
  | .reset :: es => accessesOf es

end Sys2Proof.Machine
end

