-- ==== Sys2Proof/Certificates/Slice0/Obligations.lean ====
section
/-!
DEFINITION. The statements about LWM-CORE for the provers, `def Obligations.<Name> : Prop`, and the few
words they are written in. Each docstring names the rule of spec/ it formalises; a statement that rests
on the model's own choice says so and names the assumption log.
-/
open Sys2Proof Sys2Proof.Machine

/-! ### Words of the statements -/

/-- `r` is the floor of `x / 2^s` (00_scope.md R7, `asr`). -/
def Sys2Proof.Claims.FloorShift (x : Int) (s : Nat) (r : Int) : Prop :=
  r * 2 ^ s ≤ x ∧ x < (r + 1) * 2 ^ s

/-- `k` is `n / d` rounded toward zero: its magnitude is the floor of `|n| / |d|`, its sign that of
`n * d` (00_scope.md R7, `tdiv`). -/
def Sys2Proof.Claims.Truncates (n d k : Int) : Prop :=
  |k| * |d| ≤ |n| ∧ |n| < (|k| + 1) * |d| ∧ 0 ≤ k * (n * d)

/-- `r` is the 32-bit value `v` of format `qf` in format `qt`: shifted left modulo `2^32`, or shifted
right with floor (00_scope.md R9). -/
def Sys2Proof.Claims.ConvertsTo (v : Int) (qf qt : Nat) (r : Int) : Prop :=
  if qf < qt then
    (∃ k : Int, r = v * 2 ^ (qt - qf) + k * 2 ^ 32) ∧ -2 ^ 31 ≤ r ∧ r < 2 ^ 31
  else Sys2Proof.Claims.FloorShift v (qf - qt) r

/-- The state after a fault with this cause code: the first fault since the last clear is kept, and
nothing else changes (60_exceptions.md R172). -/
def Sys2Proof.Claims.faulted (code : BitVec 4) (s : State) : State :=
  { s with fault := true, cause := if s.fault then s.cause else code }

/-- The command divides and its effective divisor is 0 (60_exceptions.md R174). -/
def Sys2Proof.Claims.DividesByZero (i : Instr) (s : State) : Prop :=
  (∃ q, i = .qdiv q ∧ s.opb = 0#32) ∨ (i = .qdivi ∧ s.opb = 0#32) ∨
    ∃ qa qb qr, i = .gdiv qa qb qr ∧ Sys2Proof.Claims.ConvertsTo s.opb.toInt qb qr 0

/-- The state after a one-result command with result `r`. -/
def Sys2Proof.Claims.withRes0 (s : State) (r : Int) : State :=
  { s with res0 := BitVec.ofInt 32 r }

/-- The state after a two-result command with results `r0` and `r1`. -/
def Sys2Proof.Claims.withResults (s : State) (r0 r1 : Int) : State :=
  { s with res0 := BitVec.ofInt 32 r0, res1 := BitVec.ofInt 32 r1 }

/-- The low 16 bits of a register as a signed integer (10_state.md R27). -/
def Sys2Proof.Claims.low16 (w : Word) : Int := (w.setWidth 16).toInt

/-- Cut to `[-32767, 32767]` (43_transforms.md R151). -/
def Sys2Proof.Claims.cut (x : Int) : Int := max (-32767) (min 32767 x)

/-- The guess after `k` Newton steps from the seed (42_sqrt.md R141). -/
def Sys2Proof.Claims.guess (x : Int) (k : Nat) : Int :=
  (fun g : Int => (g + x / g) / 2)^[k] (if x ≤ 2097152 then 128 else 8192)

/-- The opcode of a command and the Q fields it uses, as its rule's line "Encoding" gives them
(30_encoding.md R61, R63, R64). -/
def Sys2Proof.Claims.Encoding (i : Instr) (op : Nat) (qa qb qr : Option Nat) : Prop :=
  i.opcode = op ∧ i.qa? = qa ∧ i.qb? = qb ∧ i.qr? = qr

open Sys2Proof.Claims

/-! ### The command word -/

/-- Decoding the word, or the bytes, of a well-formed command gives it back, every Q field at every
value it admits (30_encoding.md R61, R62, R64, R69; 20_memory.md R43). -/
def Obligations.DecodeInvertsEncode : Prop :=
  ∀ i : Instr, i.WellFormed → decodeWord (encode i) = .ok i ∧ decodeBytes (encodeBytes i) = .ok i

/-- 30_encoding.md R65, whole: which words are legal, that exactly one row of the opcode table matches a
legal word and none an illegal one, and that an illegal one faults. -/
def Obligations.LegalWordsAreThoseOfTheOpcodeTable : Prop :=
  (∀ r ∈ opcodeTable, r.mask = 0xE0E0E0FF#32) ∧
  ∀ w : Word,
    (LegalWord w ↔ ∃ i, decodeWord w = .ok i) ∧
    (LegalWord w → ∃! r, r ∈ opcodeTable ∧ w &&& r.mask = r.bits) ∧
    (¬ LegalWord w → ∀ r ∈ opcodeTable, w &&& r.mask ≠ r.bits) ∧
    (¬ LegalWord w → ∀ s, runWord w s = .next (faulted 1#4 s))

/-- 30_encoding.md R66: a Q field the command does not use may hold any value 0..31 and the word decodes
to the same command; the reserved bits must be 0. -/
def Obligations.UnusedQFieldsAreIgnored : Prop :=
  (∀ (i : Instr) (qa qb qr : Nat), i.WellFormed → qa < 32 → qb < 32 → qr < 32 →
    (∀ q, i.qa? = some q → qa = q) → (∀ q, i.qb? = some q → qb = q) →
    (∀ q, i.qr? = some q → qr = q) → decodeWord (packWord i.opcode qa qb qr) = .ok i) ∧
  ∀ w : Word, (w.extractLsb' 13 3 ≠ 0#3 ∨ w.extractLsb' 21 3 ≠ 0#3 ∨ w.extractLsb' 29 3 ≠ 0#3) →
    ∃ e, decodeWord w = .error e

/-- 30_encoding.md R67: the words that are refused are those with a reserved opcode or a reserved bit
set; a word that decodes executes its command and a refused one faults. -/
def Obligations.ReservedWordsAreRefusedAndAllOthersExecute : Prop :=
  ∀ w : Word, let op := (w.extractLsb' 0 8).toNat
    ((op = 0x00 ∨ (0x04 ≤ op ∧ op ≤ 0x07) ∨ (0x14 ≤ op ∧ op ≤ 0x17) ∨ (0x1A ≤ op ∧ op ≤ 0x1F) ∨
        0x24 ≤ op ∨
        w.extractLsb' 13 3 ≠ 0#3 ∨ w.extractLsb' 21 3 ≠ 0#3 ∨ w.extractLsb' 29 3 ≠ 0#3) ↔
      ∃ e, decodeWord w = .error e) ∧
    (∀ i, decodeWord w = .ok i → ∀ s, ∃ t, exec i s = .next t ∧ runWord w s = .next t) ∧
    ∀ e, decodeWord w = .error e → ∀ s, runWord w s = .next (faulted 1#4 s)

/-- A decoded command is well formed, carries the opcode in bits 7:0 and reads each Q field it uses
from its bits (30_encoding.md R61, R62, R63). -/
def Obligations.DecodedCommandsReadTheirFields : Prop :=
  ∀ (w : Word) (i : Instr), decodeWord w = .ok i →
    i.WellFormed ∧ i.opcode = (w.extractLsb' 0 8).toNat ∧
    (∀ q, i.qa? = some q → q = (w.extractLsb' 8 5).toNat) ∧
    (∀ q, i.qb? = some q → q = (w.extractLsb' 16 5).toNat) ∧
    (∀ q, i.qr? = some q → q = (w.extractLsb' 24 5).toNat)

/-- A few words written out from 30_encoding.md R61 and R64, one or more for each family. -/
def Obligations.SampleWordsDecode : Prop :=
  decodeWord 0x00001001#32 = .ok (.tofix 16) ∧ decodeWord 0x18001003#32 = .ok (.qconv 16 24) ∧
  decodeWord 0x00000F0A#32 = .ok (.qmul 15) ∧ decodeWord 0x0000100D#32 = .ok (.qsubi 16) ∧
  decodeWord 0x0C081012#32 = .ok (.gmul 16 8 12) ∧ decodeWord 0x00000819#32 = .ok (.fsqrt 8) ∧
  decodeWord 0x00000020#32 = .ok .trig ∧ decodeWord 0x00000023#32 = .ok .revpark

/-- What the assembler accepts decodes to the command named, with the Q fields given and no field that
the command does not use; an omitted field is 0 (30_encoding.md R69). -/
def Obligations.AssembledLinesDecodeToWhatWasWritten : Prop :=
  ∀ (l : AsmLine) (w : Word), assemble l = .ok w →
    ∃ i, asmInstr l = some i ∧ decodeWord w = .ok i ∧
      (∃ r ∈ opcodeTable, r.mnemonic = l.mnemonic ∧ r.bits.toNat = i.opcode) ∧
      i.qa?.getD 0 = l.qa.getD 0 ∧ i.qb?.getD 0 = l.qb.getD 0 ∧ i.qr?.getD 0 = l.qr.getD 0 ∧
      (l.qa.isSome → i.qa?.isSome) ∧ (l.qb.isSome → i.qb?.isSome) ∧ (l.qr.isSome → i.qr?.isSome)

/-! ### One step, and the host's accesses -/

/-- When a command word is in flight and decodes, the step is `exec` of the command at the state in
which the command has left flight and its CMD write is answered; an access that arrives meanwhile is
held (20_memory.md R50; one step per command is the model's choice, assumption log 4). -/
def Obligations.StepRunsTheDecodedCommand : Prop :=
  ∀ (s : State) (w : Word) (i : Instr), s.inFlight = some w → decodeWord w = .ok i →
    i.WellFormed ∧
    (s.inputs = [] →
      step s = exec i { s with inFlight := none, replies := .done :: s.replies }) ∧
    (∀ rest, s.inputs = .idle :: rest →
      step s = exec i { s with inFlight := none, replies := .done :: s.replies, inputs := rest }) ∧
    (∀ a rest, s.inputs = .access a :: rest →
      step s = exec i
        { s with
            inFlight := none, replies := .done :: s.replies, inputs := rest
            held := s.held ++ [a] })

/-- 10_state.md R24: a write to CMD stores the word, whatever it is, and puts one command in flight; CMD
reads back without a side effect; running a word, legal or not, leaves CMD alone; reset makes it 0. -/
def Obligations.CmdWriteStoresTheWordAndStartsOneCommand : Prop :=
  ∀ (s : State) (w : Word),
    performAccess (.write (Config.base + 0x08) .word w) s =
      { s with cmd := w, inFlight := some w } ∧
    performAccess (.read (Config.base + 0x08) .word) s =
      { s with replies := .data s.cmd :: s.replies } ∧
    (∀ v, ∃ t, runWord v s = .next t ∧ t.cmd = s.cmd) ∧ State.reset.cmd = 0#32

/-- 60_exceptions.md R173: a CMD write of an illegal word faults with ILLEGAL_CMD whatever the operands
hold, writes no result and leaves the word in CMD. -/
def Obligations.CmdWriteOfIllegalWordFaults : Prop :=
  ∀ (s : State) (w : Word), ¬ LegalWord w →
    performWhole (.write (Config.base + 0x08) .word w) s =
      faulted 1#4 { s with cmd := w, inFlight := none, replies := .done :: s.replies }

/-- A write to OPA, OPB or OPC stores the value and does nothing else, and a read gives it back
(10_state.md R25, 20_memory.md R45). -/
def Obligations.OperandRegistersHoldWhatTheHostWrites : Prop :=
  ∀ (s : State) (v : Word),
    performAccess (.write (Config.base + 0x10) .word v) s =
      { s with opa := v, replies := .done :: s.replies } ∧
    performAccess (.write (Config.base + 0x14) .word v) s =
      { s with opb := v, replies := .done :: s.replies } ∧
    performAccess (.write (Config.base + 0x18) .word v) s =
      { s with opc := v, replies := .done :: s.replies } ∧
    readOffset 0x10 { s with opa := v } = v ∧ readOffset 0x14 { s with opb := v } = v ∧
    readOffset 0x18 { s with opc := v } = v

/-- A four-byte aligned read of any offset returns the register there and changes nothing but what the
host got (10_state.md R20, R21; 20_memory.md R44, R45, R54 X1). -/
def Obligations.ReadsReturnTheRegisterAndChangeNothing : Prop :=
  ∀ (s : State) (k : Nat), k < 16 →
    performAccess (.read (Config.base + 4 * k) .word) s =
      { s with
          replies := .data
            (match k with
              | 0 => 0x4C574D01#32
              | 1 => (BitVec.zeroExtend 32 s.cause <<< 4) ||| (if s.fault then 1#32 else 0#32)
              | 2 => s.cmd
              | 4 => s.opa
              | 5 => s.opb
              | 6 => s.opc
              | 8 => s.res0
              | 9 => s.res1
              | _ => 0#32) :: s.replies }

/-- 20_memory.md R44: a four-byte aligned write to ID, RES0, RES1 or a reserved offset is accepted and
ignored; a reserved offset reads 0. -/
def Obligations.ReadOnlyAndReservedOffsetsIgnoreWrites : Prop :=
  ∀ (s : State) (v : Word) (off : Nat),
    (off ∈ [0x00, 0x20, 0x24, 0x0C, 0x1C, 0x28, 0x2C, 0x30, 0x34, 0x38, 0x3C] →
      performAccess (.write (Config.base + off) .word v) s =
        { s with replies := .done :: s.replies }) ∧
    (off ∈ [0x0C, 0x1C, 0x28, 0x2C, 0x30, 0x34, 0x38, 0x3C] →
      performAccess (.read (Config.base + off) .word) s =
        { s with replies := .data 0#32 :: s.replies })

/-- 10_state.md R23: a write of `v` to STATUS clears FAULT and CAUSE when bit 0 of `v` is 1 and else
changes nothing; it starts no command and never sets FAULT. -/
def Obligations.StatusWriteClearsTheFault : Prop :=
  ∀ (s : State) (v : Word),
    performAccess (.write (Config.base + 0x04) .word v) s =
      if v.getLsbD 0 then { s with fault := false, cause := 0#4, replies := .done :: s.replies }
      else { s with replies := .done :: s.replies }

/-- STATUS reads FAULT in bit 0 and CAUSE in bits 7:4, and 0 in bits 3:1 and 31:8 (10_state.md R22). -/
def Obligations.StatusReadsFaultCauseAndZeros : Prop :=
  ∀ s : State,
    (readOffset 0x04 s).getLsbD 0 = s.fault ∧ (readOffset 0x04 s).extractLsb' 4 4 = s.cause ∧
    (readOffset 0x04 s).extractLsb' 1 3 = 0#3 ∧ (readOffset 0x04 s).extractLsb' 8 24 = 0#24

/-- 20_memory.md R42: in the window, only four-byte accesses at a multiple of 4 are accepted; any other
gets a bus error, changes no register, starts no command and returns no data. -/
def Obligations.OtherAccessesInTheWindowGetABusError : Prop :=
  ∀ (s : State) (a : BusAccess) (off : Nat), a.addr = Config.base + off → off < 0x40 →
    ((a.size ≠ .word ∨ off % 4 ≠ 0) →
      performAccess a s = { s with replies := .busError :: s.replies }) ∧
    (a.size = .word ∧ off % 4 = 0 →
      (performAccess a s).replies = s.replies ∨
      ∃ r, r ≠ Reply.busError ∧ (performAccess a s).replies = r :: s.replies)

/-- The block does not answer an access outside its window and is not changed by it (20_memory.md R40,
R41; what the host sees of such an access is left out, assumption log 8). -/
def Obligations.AccessesOutsideTheWindowAreNotAnswered : Prop :=
  ∀ (s : State) (a : BusAccess),
    (a.addr < Config.base ∨ Config.base + 0x40 ≤ a.addr) → performAccess a s = s

/-- An access that arrives while a command is in flight changes nothing of what the command does: it is
only held, behind those held before it (10_state.md R31, 20_memory.md R50 points 3 and 4). -/
def Obligations.AccessesArrivingInFlightAreOnlyHeld : Prop :=
  ∀ (s : State) (w : Word) (a : BusAccess) (rest : List HostEvent), s.inFlight = some w →
    ∃ t, step { s with inputs := .idle :: rest } = .next t ∧
      step { s with inputs := .access a :: rest } = .next { t with held := t.held ++ [a] }

/-- A run without reset does what the accesses do one after another in the order they arrive, each CMD
write together with its whole command, however they fall relative to the commands in flight; at the end
nothing is held or in flight (20_memory.md R50, R46; that accesses arrive one a step is the model's
choice, assumption log 6). Runs with a reset are left out: ResetGivesTheResetValues gives that step. -/
def Obligations.RunsAreSequentialInArrivalOrder : Prop :=
  ∀ s : State, HostEvent.reset ∉ s.inputs →
    ∃ k t, RunsTo k s t ∧ RunEnded t ∧
      t = (s.held ++ accessesOf s.inputs).foldl (fun u a => performWhole a u)
        { finishInFlight s with held := [], inputs := [] }

/-- A run that stops issuing accesses ends, within a number of steps that its events, its held accesses
and the command in flight bound (20_memory.md R56; the number is the model's, since a command takes
one step, assumption log 4, and one event arrives a step, assumption log 6). -/
def Obligations.EveryRunEnds : Prop :=
  ∀ s : State, ∃ k t, k ≤ 3 * s.inputs.length + 2 * s.held.length + 1 ∧ RunsTo k s t ∧ RunEnded t

/-- No step faults or refuses: every case of the block goes on (30_encoding.md R67, 60_exceptions.md
R170, 20_memory.md R56; 93_implementation_defined.md part 1: no case is stuck). -/
def Obligations.EveryStepHasANextState : Prop := ∀ s : State, ∃ t, step s = .next t

/-- The registers after reset, from any state and whatever was in flight: the values of
70_reset_and_hazards.md R190, no command in flight, none of the accesses held by it performed. Two
clauses are the model's (DEDUCED, assumption log 7): `t.inputs = rest`, the events that have not arrived
stay; and `t.held = []` where no command was in flight, an access that only waits its turn is dropped. -/
def Obligations.ResetGivesTheResetValues : Prop :=
  ∀ (s : State) (rest : List HostEvent), s.inputs = .reset :: rest →
    ∃ t, step s = .next t ∧ t.inputs = rest ∧
      readOffset 0x00 t = 0x4C574D01#32 ∧
      (∀ off, off ≠ 0x00 → readOffset off t = 0#32) ∧
      t.fault = false ∧ t.cause = 0#4 ∧ t.cmd = 0#32 ∧ t.opa = 0#32 ∧ t.opb = 0#32 ∧
      t.opc = 0#32 ∧ t.res0 = 0#32 ∧ t.res1 = 0#32 ∧ t.inFlight = none ∧ t.held = []

/-- The block right after reset: R190's values, and, with nothing arriving, a step that changes nothing
(70_reset_and_hazards.md R190, R192; 60_exceptions.md R185). -/
def Obligations.ResetStateHasTheResetValuesAndWaits : Prop :=
  readOffset 0x00 State.reset = 0x4C574D01#32 ∧
  (∀ off, off ≠ 0x00 → readOffset off State.reset = 0#32) ∧
  State.reset.inFlight = none ∧ State.reset.held = [] ∧ step State.reset = .next State.reset

/-- The invariant holds after reset (70_reset_and_hazards.md R190). -/
def Obligations.ResetStateMeetsTheInvariant : Prop := BlockInv State.reset

/-- Every step from a state that meets the invariant gives one that meets it: STATUS shows no cause
without a fault and only causes 1 and 2 with one, and the command in flight is CMD's word
(10_state.md R22, R24, R31; 60_exceptions.md R171). -/
def Obligations.EveryStepKeepsTheInvariant : Prop :=
  ∀ s t : State, BlockInv s → step s = .next t → BlockInv t

/-! ### What every command leaves alone -/

/-- No command writes OPA, OPB, OPC or CMD, or touches what is in flight, held, still to arrive or
already answered; and every command completes (10_state.md R24, R25; decision D33). -/
def Obligations.CommandsLeaveOperandsAndCmdAlone : Prop :=
  ∀ (i : Instr) (s : State), ∃ t, exec i s = .next t ∧
    t.opa = s.opa ∧ t.opb = s.opb ∧ t.opc = s.opc ∧ t.cmd = s.cmd ∧
    t.inFlight = s.inFlight ∧ t.held = s.held ∧ t.inputs = s.inputs ∧ t.replies = s.replies

/-- A command takes DIV_ZERO exactly when it divides by zero, whether or not FAULT is set already, and
then nothing but STATUS changes; every other command leaves STATUS as it was
(60_exceptions.md R170, R172, R174; 40_fixed_point.md R80). -/
def Obligations.OnlyDividesFaultAndAFaultChangesOnlyStatus : Prop :=
  ∀ (i : Instr) (s : State), ∃ t, exec i s = .next t ∧
    (DividesByZero i s → t = faulted 2#4 s) ∧
    (¬ DividesByZero i s → t.fault = s.fault ∧ t.cause = s.cause)

/-- 60_exceptions.md R172: fault entry sets FAULT and CAUSE only when FAULT is 0 and changes nothing
else; a command computes the same results whether or not FAULT is set, and without a fault of its own
it leaves STATUS as it was. -/
def Obligations.FirstFaultIsKeptAndCommandsGoOn : Prop :=
  (∀ (s : State) (c : FaultCause),
    (s.fault = true → raiseFault c s = s) ∧
    (s.fault = false → raiseFault c s =
      { s with fault := true, cause := match c with | .illegalCmd => 1#4 | .divZero => 2#4 })) ∧
  ∀ (i : Instr) (s : State) (f : Bool) (c : BitVec 4),
    ∃ t u, exec i s = .next t ∧ exec i { s with fault := f, cause := c } = .next u ∧
      u.res0 = t.res0 ∧ u.res1 = t.res1 ∧
      ((t.fault = s.fault ∧ t.cause = s.cause) ∨ t = raiseFault .divZero s)

/-- A one-result command writes RES0 only: RES1 keeps its value (10_state.md R26,
70_reset_and_hazards.md R196 item 1). -/
def Obligations.OneResultCommandsKeepRes1 : Prop :=
  ∀ (i : Instr) (s : State), i ≠ .trig → i ≠ .clarke → i ≠ .park → i ≠ .revpark →
    ∃ t, exec i s = .next t ∧ t.res1 = s.res1

/-! ### Fixed-point commands -/

/-- 40_fixed_point.md R83: TOFIX writes the low 32 bits of `n * 2^QA`. -/
def Obligations.TofixShiftsLeftAndWraps : Prop :=
  ∀ (q : Nat) (s : State),
    Encoding (.tofix q) 0x01 (some q) none none ∧
    exec (.tofix q) s = .next (withRes0 s (s.opa.toInt * 2 ^ q))

/-- 40_fixed_point.md R84: FROMFIX writes `floor(f / 2^QA)`, which always fits, and undoes TOFIX whenever
`n * 2^QA` fits in 32 bits. -/
def Obligations.FromfixFloorsAndUndoesTofix : Prop :=
  ∀ (q : Nat) (s : State),
    Encoding (.fromfix q) 0x02 (some q) none none ∧
    (∃ r, FloorShift s.opa.toInt q r ∧ -2 ^ 31 ≤ r ∧ r < 2 ^ 31 ∧
      exec (.fromfix q) s = .next (withRes0 s r)) ∧
    (-2 ^ 31 ≤ s.opa.toInt * 2 ^ q ∧ s.opa.toInt * 2 ^ q < 2 ^ 31 →
      ∃ t u, exec (.tofix q) s = .next t ∧
        exec (.fromfix q) { s with opa := t.res0 } = .next u ∧ u.res0 = s.opa)

/-- 40_fixed_point.md R85: QCONV converts from QA to QR by the rule of 00_scope.md R9. -/
def Obligations.QconvConvertsBetweenFormats : Prop :=
  ∀ (qa qr : Nat) (s : State),
    Encoding (.qconv qa qr) 0x03 (some qa) none (some qr) ∧
    ∃ r, ConvertsTo s.opa.toInt qa qr r ∧ exec (.qconv qa qr) s = .next (withRes0 s r)

/-- 40_fixed_point.md R86, R87: QADD and QSUB write the low 32 bits of the sum and the difference. -/
def Obligations.QaddAndQsubWrap : Prop :=
  ∀ s : State,
    Encoding .qadd 0x08 none none none ∧ Encoding .qsub 0x09 none none none ∧
    exec .qadd s = .next (withRes0 s (s.opa.toInt + s.opb.toInt)) ∧
    exec .qsub s = .next (withRes0 s (s.opa.toInt - s.opb.toInt))

/-- 40_fixed_point.md R88: QMUL floors the exact product shifted right by QA and keeps its low 32 bits. -/
def Obligations.QmulFloorsTheExactProduct : Prop :=
  ∀ (q : Nat) (s : State),
    Encoding (.qmul q) 0x0A (some q) none none ∧
    ∃ r, FloorShift (s.opa.toInt * s.opb.toInt) q r ∧
      exec (.qmul q) s = .next (withRes0 s r)

/-- 40_fixed_point.md R89: QDIV faults on a zero divisor and otherwise truncates `a * 2^QA / b` and keeps
its low 32 bits. -/
def Obligations.QdivTruncatesTheShiftedDividend : Prop :=
  ∀ (q : Nat) (s : State),
    Encoding (.qdiv q) 0x0B (some q) none none ∧
    (s.opb ≠ 0#32 →
      ∃ k, Truncates (s.opa.toInt * 2 ^ q) s.opb.toInt k ∧
        exec (.qdiv q) s = .next (withRes0 s k)) ∧
    (s.opb = 0#32 → exec (.qdiv q) s = .next (faulted 2#4 s))

/-- 40_fixed_point.md R90, R91: QADDI and QSUBI add and subtract `n * 2^QA` modulo `2^32`. -/
def Obligations.QaddiAndQsubiShiftTheInteger : Prop :=
  ∀ (q : Nat) (s : State),
    Encoding (.qaddi q) 0x0C (some q) none none ∧
    Encoding (.qsubi q) 0x0D (some q) none none ∧
    exec (.qaddi q) s = .next (withRes0 s (s.opa.toInt + s.opb.toInt * 2 ^ q)) ∧
    exec (.qsubi q) s = .next (withRes0 s (s.opa.toInt - s.opb.toInt * 2 ^ q))

/-- 40_fixed_point.md R92: QMULI keeps the low 32 bits of the product. -/
def Obligations.QmuliKeepsTheLowProduct : Prop :=
  ∀ s : State, Encoding .qmuli 0x0E none none none ∧
    exec .qmuli s = .next (withRes0 s (s.opa.toInt * s.opb.toInt))

/-- 40_fixed_point.md R93: QDIVI faults on a zero divisor and otherwise truncates `f / n`; the one
quotient that does not fit wraps. -/
def Obligations.QdiviTruncates : Prop :=
  ∀ s : State,
    Encoding .qdivi 0x0F none none none ∧
    (s.opb ≠ 0#32 →
      ∃ k, Truncates s.opa.toInt s.opb.toInt k ∧ exec .qdivi s = .next (withRes0 s k)) ∧
    (s.opb = 0#32 → exec .qdivi s = .next (faulted 2#4 s)) ∧
    (s.opa = 0x80000000#32 → s.opb = 0xFFFFFFFF#32 →
      exec .qdivi s = .next { s with res0 := 0x80000000#32 })

/-- 40_fixed_point.md R94, R95: GADD and GSUB convert both operands to QR, then add or subtract modulo
`2^32`; with equal formats they are QADD and QSUB. -/
def Obligations.GaddAndGsubConvertThenAdd : Prop :=
  ∀ s : State,
    (∀ qa qb qr : Nat, Encoding (.gadd qa qb qr) 0x10 (some qa) (some qb) (some qr) ∧
      Encoding (.gsub qa qb qr) 0x11 (some qa) (some qb) (some qr)) ∧
    (∀ (qa qb qr : Nat) (a b : Int), ConvertsTo s.opa.toInt qa qr a →
      ConvertsTo s.opb.toInt qb qr b →
      exec (.gadd qa qb qr) s = .next (withRes0 s (a + b)) ∧
      exec (.gsub qa qb qr) s = .next (withRes0 s (a - b))) ∧
    ∀ q, exec (.gadd q q q) s = exec .qadd s ∧ exec (.gsub q q q) s = exec .qsub s

/-- 40_fixed_point.md R96: GMUL converts the exact product from QA + QB to QR and keeps its low 32 bits;
with equal formats it is QMUL. -/
def Obligations.GmulConvertsTheExactProduct : Prop :=
  ∀ s : State,
    (∀ qa qb qr : Nat, Encoding (.gmul qa qb qr) 0x12 (some qa) (some qb) (some qr)) ∧
    (∀ qa qb qr : Nat,
      (qa + qb < qr → exec (.gmul qa qb qr) s =
        .next (withRes0 s (s.opa.toInt * s.opb.toInt * 2 ^ (qr - (qa + qb))))) ∧
      (qr ≤ qa + qb → ∃ r, FloorShift (s.opa.toInt * s.opb.toInt) (qa + qb - qr) r ∧
        exec (.gmul qa qb qr) s = .next (withRes0 s r))) ∧
    ∀ q, exec (.gmul q q q) s = exec (.qmul q) s

/-- 40_fixed_point.md R97: GDIV converts both operands to QR, faults when the converted divisor is 0, and
otherwise truncates the converted dividend times `2^QR` over it; with equal formats it is QDIV. -/
def Obligations.GdivDividesInTheResultFormat : Prop :=
  ∀ s : State,
    (∀ qa qb qr : Nat, Encoding (.gdiv qa qb qr) 0x13 (some qa) (some qb) (some qr)) ∧
    (∀ (qa qb qr : Nat) (a b : Int), ConvertsTo s.opa.toInt qa qr a →
      ConvertsTo s.opb.toInt qb qr b →
      (b ≠ 0 → ∃ k, Truncates (a * 2 ^ qr) b k ∧
        exec (.gdiv qa qb qr) s = .next (withRes0 s k)) ∧
      (b = 0 → exec (.gdiv qa qb qr) s = .next (faulted 2#4 s))) ∧
    ∀ q, exec (.gdiv q q q) s = exec (.qdiv q) s

/-- 40_fixed_point.md R98, the sign table: for the dividend `n` and the divisor `d` of QDIV, QDIVI and
GDIV, the quotient by the signs, and the fault when `d` is 0. -/
def Obligations.DivisionFollowsTheSignTable : Prop :=
  ∀ (s : State) (i : Instr) (n d : Int),
    ((∃ q, i = .qdiv q ∧ n = s.opa.toInt * 2 ^ q ∧ d = s.opb.toInt) ∨
      (i = .qdivi ∧ n = s.opa.toInt ∧ d = s.opb.toInt) ∨
      (∃ qa qb qr a, i = .gdiv qa qb qr ∧ ConvertsTo s.opa.toInt qa qr a ∧ n = a * 2 ^ qr ∧
        ConvertsTo s.opb.toInt qb qr d)) →
    (0 ≤ n → 0 < d → exec i s = .next (withRes0 s (Int.fdiv n d))) ∧
    (n < 0 → 0 < d → exec i s = .next (withRes0 s (-(Int.fdiv (-n) d)))) ∧
    (0 ≤ n → d < 0 → exec i s = .next (withRes0 s (-(Int.fdiv n (-d))))) ∧
    (n < 0 → d < 0 → exec i s = .next (withRes0 s (Int.fdiv (-n) (-d)))) ∧
    (n = 0 → d ≠ 0 → exec i s = .next (withRes0 s 0)) ∧
    (d = 0 → exec i s = .next (faulted 2#4 s))

/-! ### Datapaths: the exact arithmetic of the rules against fixed-width hardware -/

/-- A 32-bit two's-complement datapath gives the shifts, sums and scalar products of the rules
(40_fixed_point.md R81, R82). -/
def Obligations.ThirtyTwoBitDatapathAgrees : Prop :=
  ∀ (q : Nat) (s : State), q < 32 →
    exec (.tofix q) s = .next { s with res0 := s.opa <<< q } ∧
    exec (.fromfix q) s = .next { s with res0 := s.opa.sshiftRight q } ∧
    exec .qadd s = .next { s with res0 := s.opa + s.opb } ∧
    exec .qsub s = .next { s with res0 := s.opa - s.opb } ∧
    exec (.qaddi q) s = .next { s with res0 := s.opa + (s.opb <<< q) } ∧
    exec (.qsubi q) s = .next { s with res0 := s.opa - (s.opb <<< q) } ∧
    exec .qmuli s = .next { s with res0 := s.opa * s.opb } ∧
    (s.opb ≠ 0#32 → exec .qdivi s = .next { s with res0 := s.opa.sdiv s.opb })

/-- A 64-bit datapath gives the products of QMUL and GMUL, for every Q the fields admit
(40_fixed_point.md R81: "A hardware datapath of 64 bits gives the same result for every row"). -/
def Obligations.SixtyFourBitDatapathMultiplies : Prop :=
  ∀ (s : State) (qa qb qr : Nat), qa < 32 → qb < 32 → qr < 32 →
    let p : BitVec 64 := s.opa.signExtend 64 * s.opb.signExtend 64
    exec (.qmul qa) s = .next { s with res0 := (p.sshiftRight qa).setWidth 32 } ∧
    exec (.gmul qa qb qr) s =
      .next { s with
        res0 :=
          if qa + qb < qr then (p <<< (qr - (qa + qb))).setWidth 32
          else (p.sshiftRight (qa + qb - qr)).setWidth 32 }

/-- A 64-bit signed divider on the dividend shifted in 64 bits gives QDIV, and after the 32-bit
conversions GDIV (40_fixed_point.md R81, R89, R97; decision D8). -/
def Obligations.SixtyFourBitDatapathDivides : Prop :=
  ∀ (s : State) (qa qb qr : Nat), qa < 32 → qb < 32 → qr < 32 →
    let conv (v : Word) (qf : Nat) : Word :=
      if qf < qr then v <<< (qr - qf) else v.sshiftRight (qf - qr)
    let quot (a b : Word) (q : Nat) : Word :=
      (BitVec.sdiv (a.signExtend 64 <<< q) (b.signExtend 64)).setWidth 32
    (s.opb ≠ 0#32 → exec (.qdiv qa) s = .next { s with res0 := quot s.opa s.opb qa }) ∧
    (conv s.opb qb ≠ 0#32 → exec (.gdiv qa qb qr) s =
      .next { s with res0 := quot (conv s.opa qa) (conv s.opb qb) qr })

/-! ### Square root -/

/-- 42_sqrt.md R141, R142: ISQRT writes 0 for a non-positive input, else the guess at which the
iteration converges, or the sixth computed value. -/
def Obligations.IsqrtRunsAtMostSixNewtonSteps : Prop :=
  ∀ s : State,
    Encoding .isqrt 0x18 none none none ∧
    (s.opa.toInt ≤ 0 → exec .isqrt s = .next (withRes0 s 0)) ∧
    (0 < s.opa.toInt → ∃ r, exec .isqrt s = .next (withRes0 s r) ∧
      ((∀ k < 6, guess s.opa.toInt (k + 1) ≠ guess s.opa.toInt k) → r = guess s.opa.toInt 6) ∧
      ∀ k < 6, guess s.opa.toInt (k + 1) = guess s.opa.toInt k → r = guess s.opa.toInt k)

/-- For every positive input ISQRT is the floor of the square root or one more: 42_sqrt.md R144 item 3
and, for the perfect squares, item 5. -/
def Obligations.IsqrtIsTheFloorRootOrOneMore : Prop :=
  (∀ s : State, 0 < s.opa.toInt →
    ∃ r : Nat, exec .isqrt s = .next (withRes0 s r) ∧
      (r = Nat.sqrt s.opa.toNat ∨ r = Nat.sqrt s.opa.toNat + 1)) ∧
  ∀ (s : State) (n : Nat), n ≤ 46340 → s.opa = BitVec.ofNat 32 (n * n) →
    exec .isqrt s = .next (withRes0 s (if n = 1 then 2 else n))

/-- Every guess the model's iteration divides by is at least 2, and no intermediate sum exceeds 270335,
so a 32-bit datapath never overflows (42_sqrt.md R144 items 1 and 2); and the result is one of the
iterates, the sixth at the latest. -/
def Obligations.SquareRootNeverDividesByZeroOrOverflows : Prop :=
  ∀ x : Int, 0 < x → x < 2 ^ 31 →
    (∀ k < 6, let g := (sqrtNext x)^[k] (sqrtSeed x)
      2 ≤ g ∧ 0 ≤ x / g ∧ g + x / g ≤ 270335) ∧
    ∃ k ≤ 6, isqrt x = (sqrtNext x)^[k] (sqrtSeed x)

/-- 42_sqrt.md R143: FSQRT is ISQRT of the operand shifted left by QA in 32 bits. -/
def Obligations.FsqrtIsIsqrtOfTheWrappedShift : Prop :=
  ∀ (q : Nat) (s : State),
    Encoding (.fsqrt q) 0x19 (some q) none none ∧
    ∃ r : Word, exec .isqrt { s with opa := s.opa <<< q } =
        .next { s with opa := s.opa <<< q, res0 := r } ∧
      exec (.fsqrt q) s = .next { s with res0 := r }

/-! ### Trigonometric evaluator -/

/-- 41_trig.md R124, R125: the entry is angle bits 13:6, the quadrant bits 15:14; cosine and sine by
quadrant, the mirror at `255 - i`; bits 31:16 and 5:0 of OPA do not matter. -/
def Obligations.TrigFoldsTheQuadrants : Prop :=
  ∀ s : State,
    let i : BitVec 8 := s.opa.extractLsb' 6 8
    let here : Int := (sinTable i).toInt
    let mirror : Int := (sinTable (BitVec.ofNat 8 (255 - i.toNat))).toInt
    Encoding .trig 0x20 none none none ∧
    (s.opa.extractLsb' 14 2 = 0#2 → exec .trig s = .next (withResults s mirror here)) ∧
    (s.opa.extractLsb' 14 2 = 1#2 → exec .trig s = .next (withResults s (-here) mirror)) ∧
    (s.opa.extractLsb' 14 2 = 2#2 → exec .trig s = .next (withResults s (-mirror) (-here))) ∧
    (s.opa.extractLsb' 14 2 = 3#2 → exec .trig s = .next (withResults s here (-mirror)))

/-- 41_trig.md R126: the canonical angles, for every table. -/
def Obligations.TrigAtTheCanonicalAngles : Prop :=
  ∀ s : State,
    (low16 s.opa = 0 → exec .trig s = .next (withResults s 0x7FFE 0)) ∧
    (low16 s.opa = 16384 → exec .trig s = .next (withResults s 0 0x7FFE)) ∧
    (low16 s.opa = -32768 → exec .trig s = .next (withResults s (-0x7FFE) 0)) ∧
    (low16 s.opa = 32767 → exec .trig s = .next (withResults s (-0x7FFE) 0)) ∧
    (low16 s.opa = -16384 → exec .trig s = .next (withResults s 0 (-0x7FFE))) ∧
    (low16 s.opa = -1 → exec .trig s = .next (withResults s 0x7FFE 0))

/-- Every cosine and sine, of TRIG and inside PARK and REVPARK, lies in `[-32766, 32766]`
(41_trig.md R127; that an entry is not below -32766 is read from R127 and 90_conflicts.md C2,
assumption log 2). -/
def Obligations.TrigResultsStayInRange : Prop :=
  (∀ a : Int, -32766 ≤ (trig a).1 ∧ (trig a).1 ≤ 32766 ∧ -32766 ≤ (trig a).2 ∧ (trig a).2 ≤ 32766) ∧
  ∀ s : State, ∃ t, exec .trig s = .next t ∧
    -32766 ≤ t.res0.toInt ∧ t.res0.toInt ≤ 32766 ∧ -32766 ≤ t.res1.toInt ∧ t.res1.toInt ≤ 32766

/-- TRIG depends on bits 15:6 of OPA only, so an angle stepped in 32 bits wraps by itself
(41_trig.md R128, R124). -/
def Obligations.TrigReadsOnlyBits15To6 : Prop :=
  ∀ (s : State) (v : Word), v.extractLsb' 6 10 = s.opa.extractLsb' 6 10 →
    ∃ t u, exec .trig s = .next t ∧ exec .trig { s with opa := v } = .next u ∧
      u.res0 = t.res0 ∧ u.res1 = t.res1

/-- The block's table meets the constraints, and every table that meets them is left as it is by the
shaping, so none of these is shut out (41_trig.md R120, R121). `Conforms` holds more than items 1 to 4 of
R121: that no entry is below -32766 is the model's (DEDUCED from 41_trig.md R127 and 90_conflicts.md C2,
assumption log 2), and a table that meets R121 with a lower entry is not covered. -/
def Obligations.EveryConformingTableIsAdmitted : Prop :=
  sinTable.Conforms ∧ ∀ T : SinTable, T.Conforms → shapeTable T = T

/-! ### Transforms -/

/-- 43_transforms.md R152: alpha is `a`; beta is the floor of `-(a + 2 b) * 18918 / 32768`, cut to
`[-32767, 32767]`. -/
def Obligations.ClarkeRotatesAndSaturates : Prop :=
  ∀ s : State, Encoding .clarke 0x21 none none none ∧ ∃ raw,
    FloorShift (-(low16 s.opa + 2 * low16 s.opb) * 18918) 15 raw ∧
    exec .clarke s = .next (withResults s (low16 s.opa) (cut raw))

/-- 43_transforms.md R153: PARK floors both sums over 32768 and cuts them to `[-32767, 32767]`. -/
def Obligations.ParkRotatesAndSaturates : Prop :=
  ∀ s : State, Encoding .park 0x22 none none none ∧ ∃ q d,
    let c := (trig (low16 s.opc)).1
    let sn := (trig (low16 s.opc)).2
    let al := low16 s.opa
    let be := low16 s.opb
    FloorShift (al * c - be * sn) 15 q ∧ FloorShift (al * sn + be * c) 15 d ∧
    exec .park s = .next (withResults s (cut q) (cut d))

/-- 43_transforms.md R154: REVPARK floors both sums over 32768 and keeps their low 16 bits,
sign-extended, with no saturation. -/
def Obligations.RevparkRotatesAndWraps : Prop :=
  ∀ s : State, Encoding .revpark 0x23 none none none ∧ ∃ alpha beta,
    let c := (trig (low16 s.opc)).1
    let sn := (trig (low16 s.opc)).2
    let q := low16 s.opa
    let d := low16 s.opb
    FloorShift (q * c + d * sn) 15 alpha ∧ FloorShift (d * c - q * sn) 15 beta ∧
    exec .revpark s =
      .next { s with
        res0 := (BitVec.ofInt 16 alpha).signExtend 32
        res1 := (BitVec.ofInt 16 beta).signExtend 32 }

/-- The sums of CLARKE, PARK and REVPARK fit in 32 bits, and each command answers what a 32-bit
datapath of products, sums and arithmetic shifts answers (corner cases of 43_transforms.md R152, R153,
R154; the bound of a cosine and a sine is read from 41_trig.md R127, assumption log 2). -/
def Obligations.TransformSumsFitInThirtyTwoBits : Prop :=
  ∀ s : State,
    let a : Word := (s.opa.setWidth 16).signExtend 32
    let b : Word := (s.opb.setWidth 16).signExtend 32
    let cs := trig (low16 s.opc)
    let c : Word := BitVec.ofInt 32 cs.1
    let sn : Word := BitVec.ofInt 32 cs.2
    let cut32 (w : Word) : Word :=
      if (32767#32).slt w then 32767#32 else if w.slt (-32767#32) then -32767#32 else w
    let low (w : Word) : Word := (w.setWidth 16).signExtend 32
    let park := parkSums (low16 s.opa) (low16 s.opb) cs.1 cs.2
    let revpark := revparkSums (low16 s.opa) (low16 s.opb) cs.1 cs.2
    |clarkeSum (low16 s.opa) (low16 s.opb)| ≤ 1859715072 ∧
    |park.1| ≤ 2147352576 ∧ |park.2| ≤ 2147352576 ∧
    |revpark.1| ≤ 2147352576 ∧ |revpark.2| ≤ 2147352576 ∧
    exec .clarke s = .next { s with
      res0 := a
      res1 := cut32 ((-(a * 18918#32) - b * 18918#32 - b * 18918#32).sshiftRight 15) } ∧
    exec .park s = .next { s with
      res0 := cut32 ((a * c - b * sn).sshiftRight 15)
      res1 := cut32 ((a * sn + b * c).sshiftRight 15) } ∧
    exec .revpark s = .next { s with
      res0 := low ((a * c + b * sn).sshiftRight 15)
      res1 := low ((b * c - a * sn).sshiftRight 15) }

/-- CLARKE gives back `a` as alpha, and no saturated result of CLARKE or PARK is ever -32768 or out of
`[-32767, 32767]` (43_transforms.md R151, R155 items 1 and 2). -/
def Obligations.ClarkeAndParkNeverEmitTheMinimum : Prop :=
  ∀ s : State,
    (∃ t, exec .clarke s = .next t ∧ t.res0 = (s.opa.setWidth 16).signExtend 32 ∧
      -32767 ≤ t.res1.toInt ∧ t.res1.toInt ≤ 32767) ∧
    ∃ t, exec .park s = .next t ∧ -32767 ≤ t.res0.toInt ∧ t.res0.toInt ≤ 32767 ∧
      -32767 ≤ t.res1.toInt ∧ t.res1.toInt ≤ 32767

/-- PARK and REVPARK at theta = 0, and PARK at theta = 16384, for every table
(43_transforms.md R155 item 4). -/
def Obligations.TransformsAtZeroAndAtAQuarterTurn : Prop :=
  ∀ s : State,
    (low16 s.opc = 0 → ∃ r0 r1, FloorShift (low16 s.opa * 32766) 15 r0 ∧
      FloorShift (low16 s.opb * 32766) 15 r1 ∧
      exec .park s = .next (withResults s r0 r1) ∧
      exec .revpark s = .next (withResults s r0 r1)) ∧
    (low16 s.opc = 16384 → ∃ r0 r1, FloorShift (-(low16 s.opb) * 32766) 15 r0 ∧
      FloorShift (low16 s.opa * 32766) 15 r1 ∧
      exec .park s = .next (withResults s r0 r1))
end

