-- ==== Sys2Proof/Laws/Arith.lean ====
section
/-!
SUPPORT. What the arithmetic primitives of 00_scope.md R7 and R9, the narrowing of 43_transforms.md R151
and the table shaping of 41_trig.md R121 satisfy.
-/
namespace Sys2Proof.Machine

/-! ### Primitives -/

theorem wrap_eq_toInt (n : Nat) (x : Int) : wrap n x = (bits n x).toInt := by
  simp [wrap, bits]

/-- Narrowing before taking the bits changes nothing: `bits_N` wraps by itself (R7). -/
@[simp] theorem bits_wrap (n : Nat) (x : Int) : bits n (wrap n x) = bits n x := by
  rw [wrap_eq_toInt, bits, bits, BitVec.ofInt_toInt]

/-- `asr` is the floor of the quotient (R7). -/
theorem asr_floor (x : Int) (s : Nat) : asr x s * 2 ^ s ≤ x ∧ x < (asr x s + 1) * 2 ^ s := by
  have h : (0 : Int) < 2 ^ s := by positivity
  rw [asr, Int.fdiv_eq_ediv_of_nonneg _ h.le]
  exact ⟨Int.ediv_mul_le x h.ne', Int.lt_ediv_add_one_mul_self x h⟩

@[simp] theorem asr_zero (x : Int) : asr x 0 = x := by simp [asr]

@[simp] theorem shl_zero (x : Int) : shl x 0 = x := by simp [shl]

/-- A conversion between equal formats gives the value (R9). -/
@[simp] theorem conv32_same (v : Int) (q : Nat) : conv32 v q q = v := by simp [conv32]

/-! ### Operands -/

theorem op32_range (r : Word) : -2147483648 ≤ op32 r ∧ op32 r ≤ 2147483647 := by
  have h₁ := BitVec.le_toInt r
  have h₂ := BitVec.toInt_lt (x := r)
  norm_num at h₁ h₂
  unfold op32
  omega

theorem op16_range (r : Word) : -32768 ≤ op16 r ∧ op16 r ≤ 32767 := by
  unfold op16
  generalize r.extractLsb' 0 16 = h
  have h₁ := BitVec.le_toInt h
  have h₂ := BitVec.toInt_lt (x := h)
  norm_num at h₁ h₂
  omega

/-! ### Narrowing -/

/-- `sat16n` is the clamp to `[-32767, 32767]` (43_transforms.md R151). -/
theorem sat16n_eq_clamp (x : Int) : sat16n x = clamp x (-32767) 32767 := by
  unfold sat16n nudge clamp
  split_ifs <;> omega

theorem sat16n_range (x : Int) : -32767 ≤ sat16n x ∧ sat16n x ≤ 32767 := by
  rw [sat16n_eq_clamp, clamp]
  split_ifs <;> omega

/-! ### The table -/

/-- Every shaped table meets the constraints (41_trig.md R121). -/
theorem shapeTable_conforms (raw : SinTable) : (shapeTable raw).Conforms := by
  refine ⟨rfl, rfl, fun i => ?_⟩
  unfold shapeTable
  split_ifs with h₀ h₁ h₂
  · decide
  · decide
  · exact h₂
  · decide

theorem sinTable_conforms : sinTable.Conforms := shapeTable_conforms _

end Sys2Proof.Machine
end

