-- ==== Sys2Proof/Laws/Encoding.lean ====
section
/-!
SUPPORT. The command word as a number: its fields, its bytes and its packing (30_encoding.md R61, R69).
-/
namespace Sys2Proof

theorem field_eq (w : Word) (lo len : Nat) : field w lo len = w.toNat / 2 ^ lo % 2 ^ len := by
  simp [field, Nat.shiftRight_eq_div_pow]

/-- The bitwise-or of R69 is a sum when every field fits. -/
theorem packWord_toNat {op qa qb qr : Nat} (ho : op < 256) (ha : qa < 32) (hb : qb < 32)
    (hr : qr < 32) :
    (packWord op qa qb qr).toNat = 2 ^ 24 * qr + (2 ^ 16 * qb + (2 ^ 8 * qa + op)) := by
  simp only [packWord, BitVec.toNat_or, BitVec.toNat_shiftLeft, BitVec.toNat_ofNat,
    Nat.shiftLeft_eq]
  rw [Nat.mod_eq_of_lt (by omega : op < 2 ^ 32), Nat.mod_eq_of_lt (by omega : qr < 2 ^ 32),
    Nat.mod_eq_of_lt (by omega : qb < 2 ^ 32), Nat.mod_eq_of_lt (by omega : qa < 2 ^ 32),
    Nat.mod_eq_of_lt (by omega), Nat.mod_eq_of_lt (by omega), Nat.mod_eq_of_lt (by omega)]
  have h₈ := Nat.two_pow_add_eq_or_of_lt (by omega : op < 2 ^ 8) qa
  have h₁₆ := Nat.two_pow_add_eq_or_of_lt (by omega : 2 ^ 8 * qa + op < 2 ^ 16) qb
  have h₂₄ := Nat.two_pow_add_eq_or_of_lt (by omega : 2 ^ 16 * qb + (2 ^ 8 * qa + op) < 2 ^ 24) qr
  rw [h₂₄, h₁₆, h₈]
  simp only [Nat.or_assoc, Nat.mul_comm]

/-- The fields of a packed word are the numbers packed into it, and its reserved bits are 0. -/
theorem packWord_fields {op qa qb qr : Nat} (ho : op < 256) (ha : qa < 32) (hb : qb < 32)
    (hr : qr < 32) :
    opField (packWord op qa qb qr) = op ∧ qaField (packWord op qa qb qr) = qa ∧
    qbField (packWord op qa qb qr) = qb ∧ qrField (packWord op qa qb qr) = qr ∧
    reservedClear (packWord op qa qb qr) = true := by
  simp only [opField, qaField, qbField, qrField, reservedClear, field_eq,
    packWord_toNat ho ha hb hr, decide_eq_true_eq]
  omega

/-- Writing a word out as bytes and reading them back gives the word (20_memory.md R43). -/
theorem decodeBytes_bytesOfWord (w : Word) : decodeBytes (bytesOfWord w) = decodeWord w := by
  simp only [decodeBytes, bytesOfWord, wordOfBytes]
  congr 1
  apply BitVec.eq_of_toNat_eq
  have h := w.isLt
  simp only [BitVec.toNat_append, BitVec.extractLsb'_toNat, Nat.shiftLeft_eq,
    Nat.shiftRight_eq_div_pow]
  generalize w.toNat = n at *
  have join (a b : Nat) : a * 2 ^ 8 ||| b % 2 ^ 8 = a * 2 ^ 8 + b % 2 ^ 8 := by
    rw [Nat.mul_comm, Nat.two_pow_add_eq_or_of_lt (Nat.mod_lt _ (by decide))]
  simp only [join]
  omega

end Sys2Proof
end

