-- ==== Sys2Proof/Laws/State.lean ====
section
/-!
SUPPORT. What every update of the state does to every field, one lemma each, so that no later proof
unfolds a record update. The updates that depend on a test (`raiseFault`, `writeStatus`) have their
fields stated with that test.
-/
namespace Sys2Proof.Machine

section
variable (s : State)

/-! ### `writeRes0` -/

@[simp] theorem writeRes0_fault (r : Int) : (writeRes0 r s).fault = s.fault := rfl
@[simp] theorem writeRes0_cause (r : Int) : (writeRes0 r s).cause = s.cause := rfl
@[simp] theorem writeRes0_cmd (r : Int) : (writeRes0 r s).cmd = s.cmd := rfl
@[simp] theorem writeRes0_opa (r : Int) : (writeRes0 r s).opa = s.opa := rfl
@[simp] theorem writeRes0_opb (r : Int) : (writeRes0 r s).opb = s.opb := rfl
@[simp] theorem writeRes0_opc (r : Int) : (writeRes0 r s).opc = s.opc := rfl
@[simp] theorem writeRes0_res0 (r : Int) : (writeRes0 r s).res0 = bits 32 r := rfl
@[simp] theorem writeRes0_res1 (r : Int) : (writeRes0 r s).res1 = s.res1 := rfl
@[simp] theorem writeRes0_inFlight (r : Int) : (writeRes0 r s).inFlight = s.inFlight := rfl
@[simp] theorem writeRes0_held (r : Int) : (writeRes0 r s).held = s.held := rfl
@[simp] theorem writeRes0_inputs (r : Int) : (writeRes0 r s).inputs = s.inputs := rfl
@[simp] theorem writeRes0_replies (r : Int) : (writeRes0 r s).replies = s.replies := rfl

/-! ### `writeResults` -/

@[simp] theorem writeResults_fault (r0 r1 : Int) : (writeResults r0 r1 s).fault = s.fault := rfl
@[simp] theorem writeResults_cause (r0 r1 : Int) : (writeResults r0 r1 s).cause = s.cause := rfl
@[simp] theorem writeResults_cmd (r0 r1 : Int) : (writeResults r0 r1 s).cmd = s.cmd := rfl
@[simp] theorem writeResults_opa (r0 r1 : Int) : (writeResults r0 r1 s).opa = s.opa := rfl
@[simp] theorem writeResults_opb (r0 r1 : Int) : (writeResults r0 r1 s).opb = s.opb := rfl
@[simp] theorem writeResults_opc (r0 r1 : Int) : (writeResults r0 r1 s).opc = s.opc := rfl
@[simp] theorem writeResults_res0 (r0 r1 : Int) : (writeResults r0 r1 s).res0 = bits 32 r0 := rfl
@[simp] theorem writeResults_res1 (r0 r1 : Int) : (writeResults r0 r1 s).res1 = bits 32 r1 := rfl
@[simp] theorem writeResults_inFlight (r0 r1 : Int) : (writeResults r0 r1 s).inFlight = s.inFlight := rfl
@[simp] theorem writeResults_held (r0 r1 : Int) : (writeResults r0 r1 s).held = s.held := rfl
@[simp] theorem writeResults_inputs (r0 r1 : Int) : (writeResults r0 r1 s).inputs = s.inputs := rfl
@[simp] theorem writeResults_replies (r0 r1 : Int) : (writeResults r0 r1 s).replies = s.replies := rfl

/-! ### `reply` -/

@[simp] theorem reply_fault (r : Reply) : (reply r s).fault = s.fault := rfl
@[simp] theorem reply_cause (r : Reply) : (reply r s).cause = s.cause := rfl
@[simp] theorem reply_cmd (r : Reply) : (reply r s).cmd = s.cmd := rfl
@[simp] theorem reply_opa (r : Reply) : (reply r s).opa = s.opa := rfl
@[simp] theorem reply_opb (r : Reply) : (reply r s).opb = s.opb := rfl
@[simp] theorem reply_opc (r : Reply) : (reply r s).opc = s.opc := rfl
@[simp] theorem reply_res0 (r : Reply) : (reply r s).res0 = s.res0 := rfl
@[simp] theorem reply_res1 (r : Reply) : (reply r s).res1 = s.res1 := rfl
@[simp] theorem reply_inFlight (r : Reply) : (reply r s).inFlight = s.inFlight := rfl
@[simp] theorem reply_held (r : Reply) : (reply r s).held = s.held := rfl
@[simp] theorem reply_inputs (r : Reply) : (reply r s).inputs = s.inputs := rfl
@[simp] theorem reply_replies (r : Reply) : (reply r s).replies = r :: s.replies := rfl

/-! ### `startCommand` -/

@[simp] theorem startCommand_fault (w : Word) : (startCommand w s).fault = s.fault := rfl
@[simp] theorem startCommand_cause (w : Word) : (startCommand w s).cause = s.cause := rfl
@[simp] theorem startCommand_cmd (w : Word) : (startCommand w s).cmd = w := rfl
@[simp] theorem startCommand_opa (w : Word) : (startCommand w s).opa = s.opa := rfl
@[simp] theorem startCommand_opb (w : Word) : (startCommand w s).opb = s.opb := rfl
@[simp] theorem startCommand_opc (w : Word) : (startCommand w s).opc = s.opc := rfl
@[simp] theorem startCommand_res0 (w : Word) : (startCommand w s).res0 = s.res0 := rfl
@[simp] theorem startCommand_res1 (w : Word) : (startCommand w s).res1 = s.res1 := rfl
@[simp] theorem startCommand_inFlight (w : Word) : (startCommand w s).inFlight = some w := rfl
@[simp] theorem startCommand_held (w : Word) : (startCommand w s).held = s.held := rfl
@[simp] theorem startCommand_inputs (w : Word) : (startCommand w s).inputs = s.inputs := rfl
@[simp] theorem startCommand_replies (w : Word) : (startCommand w s).replies = s.replies := rfl

/-! ### `arrive` -/

@[simp] theorem arrive_fault (a : BusAccess) : (arrive a s).fault = s.fault := rfl
@[simp] theorem arrive_cause (a : BusAccess) : (arrive a s).cause = s.cause := rfl
@[simp] theorem arrive_cmd (a : BusAccess) : (arrive a s).cmd = s.cmd := rfl
@[simp] theorem arrive_opa (a : BusAccess) : (arrive a s).opa = s.opa := rfl
@[simp] theorem arrive_opb (a : BusAccess) : (arrive a s).opb = s.opb := rfl
@[simp] theorem arrive_opc (a : BusAccess) : (arrive a s).opc = s.opc := rfl
@[simp] theorem arrive_res0 (a : BusAccess) : (arrive a s).res0 = s.res0 := rfl
@[simp] theorem arrive_res1 (a : BusAccess) : (arrive a s).res1 = s.res1 := rfl
@[simp] theorem arrive_inFlight (a : BusAccess) : (arrive a s).inFlight = s.inFlight := rfl
@[simp] theorem arrive_held (a : BusAccess) : (arrive a s).held = s.held ++ [a] := rfl
@[simp] theorem arrive_inputs (a : BusAccess) : (arrive a s).inputs = s.inputs := rfl
@[simp] theorem arrive_replies (a : BusAccess) : (arrive a s).replies = s.replies := rfl

/-! ### `retire` -/

@[simp] theorem retire_fault : (retire s).fault = s.fault := rfl
@[simp] theorem retire_cause : (retire s).cause = s.cause := rfl
@[simp] theorem retire_cmd : (retire s).cmd = s.cmd := rfl
@[simp] theorem retire_opa : (retire s).opa = s.opa := rfl
@[simp] theorem retire_opb : (retire s).opb = s.opb := rfl
@[simp] theorem retire_opc : (retire s).opc = s.opc := rfl
@[simp] theorem retire_res0 : (retire s).res0 = s.res0 := rfl
@[simp] theorem retire_res1 : (retire s).res1 = s.res1 := rfl
@[simp] theorem retire_inFlight : (retire s).inFlight = none := rfl
@[simp] theorem retire_held : (retire s).held = s.held := rfl
@[simp] theorem retire_inputs : (retire s).inputs = s.inputs := rfl
@[simp] theorem retire_replies : (retire s).replies = .done :: s.replies := rfl

/-! ### `resetBlock` -/

@[simp] theorem resetBlock_fault : (resetBlock s).fault = State.reset.fault := rfl
@[simp] theorem resetBlock_cause : (resetBlock s).cause = State.reset.cause := rfl
@[simp] theorem resetBlock_cmd : (resetBlock s).cmd = State.reset.cmd := rfl
@[simp] theorem resetBlock_opa : (resetBlock s).opa = State.reset.opa := rfl
@[simp] theorem resetBlock_opb : (resetBlock s).opb = State.reset.opb := rfl
@[simp] theorem resetBlock_opc : (resetBlock s).opc = State.reset.opc := rfl
@[simp] theorem resetBlock_res0 : (resetBlock s).res0 = State.reset.res0 := rfl
@[simp] theorem resetBlock_res1 : (resetBlock s).res1 = State.reset.res1 := rfl
@[simp] theorem resetBlock_inFlight : (resetBlock s).inFlight = State.reset.inFlight := rfl
@[simp] theorem resetBlock_held : (resetBlock s).held = State.reset.held := rfl
@[simp] theorem resetBlock_inputs : (resetBlock s).inputs = s.inputs := rfl
@[simp] theorem resetBlock_replies : (resetBlock s).replies = s.replies := rfl

/-! ### `raiseFault` (60_exceptions.md R172) -/

@[simp] theorem raiseFault_fault (c : FaultCause) : (raiseFault c s).fault = true := by
  cases h : s.fault <;> simp [raiseFault, h]
@[simp] theorem raiseFault_cause (c : FaultCause) :
    (raiseFault c s).cause = if s.fault then s.cause else causeCode c := by
  cases h : s.fault <;> simp [raiseFault, h]
@[simp] theorem raiseFault_cmd (c : FaultCause) : (raiseFault c s).cmd = s.cmd := by
  cases h : s.fault <;> simp [raiseFault, h]
@[simp] theorem raiseFault_opa (c : FaultCause) : (raiseFault c s).opa = s.opa := by
  cases h : s.fault <;> simp [raiseFault, h]
@[simp] theorem raiseFault_opb (c : FaultCause) : (raiseFault c s).opb = s.opb := by
  cases h : s.fault <;> simp [raiseFault, h]
@[simp] theorem raiseFault_opc (c : FaultCause) : (raiseFault c s).opc = s.opc := by
  cases h : s.fault <;> simp [raiseFault, h]
@[simp] theorem raiseFault_res0 (c : FaultCause) : (raiseFault c s).res0 = s.res0 := by
  cases h : s.fault <;> simp [raiseFault, h]
@[simp] theorem raiseFault_res1 (c : FaultCause) : (raiseFault c s).res1 = s.res1 := by
  cases h : s.fault <;> simp [raiseFault, h]
@[simp] theorem raiseFault_inFlight (c : FaultCause) : (raiseFault c s).inFlight = s.inFlight := by
  cases h : s.fault <;> simp [raiseFault, h]
@[simp] theorem raiseFault_held (c : FaultCause) : (raiseFault c s).held = s.held := by
  cases h : s.fault <;> simp [raiseFault, h]
@[simp] theorem raiseFault_inputs (c : FaultCause) : (raiseFault c s).inputs = s.inputs := by
  cases h : s.fault <;> simp [raiseFault, h]
@[simp] theorem raiseFault_replies (c : FaultCause) : (raiseFault c s).replies = s.replies := by
  cases h : s.fault <;> simp [raiseFault, h]

/-! ### `writeStatus` (10_state.md R23) -/

@[simp] theorem writeStatus_fault (v : Word) :
    (writeStatus v s).fault = (s.fault && !v.getLsbD 0) := by
  cases h : v.getLsbD 0 <;> simp only [writeStatus, h] <;> simp
@[simp] theorem writeStatus_cause (v : Word) :
    (writeStatus v s).cause = if v.getLsbD 0 then 0#4 else s.cause := by
  cases h : v.getLsbD 0 <;> simp only [writeStatus, h] <;> simp
@[simp] theorem writeStatus_cmd (v : Word) : (writeStatus v s).cmd = s.cmd := by
  cases h : v.getLsbD 0 <;> simp only [writeStatus, h] <;> simp
@[simp] theorem writeStatus_opa (v : Word) : (writeStatus v s).opa = s.opa := by
  cases h : v.getLsbD 0 <;> simp only [writeStatus, h] <;> simp
@[simp] theorem writeStatus_opb (v : Word) : (writeStatus v s).opb = s.opb := by
  cases h : v.getLsbD 0 <;> simp only [writeStatus, h] <;> simp
@[simp] theorem writeStatus_opc (v : Word) : (writeStatus v s).opc = s.opc := by
  cases h : v.getLsbD 0 <;> simp only [writeStatus, h] <;> simp
@[simp] theorem writeStatus_res0 (v : Word) : (writeStatus v s).res0 = s.res0 := by
  cases h : v.getLsbD 0 <;> simp only [writeStatus, h] <;> simp
@[simp] theorem writeStatus_res1 (v : Word) : (writeStatus v s).res1 = s.res1 := by
  cases h : v.getLsbD 0 <;> simp only [writeStatus, h] <;> simp
@[simp] theorem writeStatus_inFlight (v : Word) : (writeStatus v s).inFlight = s.inFlight := by
  cases h : v.getLsbD 0 <;> simp only [writeStatus, h] <;> simp
@[simp] theorem writeStatus_held (v : Word) : (writeStatus v s).held = s.held := by
  cases h : v.getLsbD 0 <;> simp only [writeStatus, h] <;> simp
@[simp] theorem writeStatus_inputs (v : Word) : (writeStatus v s).inputs = s.inputs := by
  cases h : v.getLsbD 0 <;> simp only [writeStatus, h] <;> simp
@[simp] theorem writeStatus_replies (v : Word) : (writeStatus v s).replies = s.replies := by
  cases h : v.getLsbD 0 <;> simp only [writeStatus, h] <;> simp

end

end Sys2Proof.Machine
end

