-- ==== Sys2Proof/Laws/Ops.lean ====
section
/-!
SUPPORT. For each shared operation, once, everything it can do: cite these instead of unfolding the
operation.
-/
namespace Sys2Proof.Machine

/-! ### Completing a command -/

/-- A one-result fixed-point command writes the low 32 bits of its exact result to RES0
(40_fixed_point.md R80, R82). -/
theorem completeFixed_eq (r : Int) (s : State) :
    completeFixed r s = .next { s with res0 := bits 32 r } := by
  simp [completeFixed, writeRes0]

/-- A dividing command faults on a zero divisor and otherwise writes the truncated quotient
(R89, R93, R97). -/
theorem completeDivide_eq (n d : Int) (s : State) :
    completeDivide n d s =
      if d = 0 then .next (raiseFault .divZero s)
      else .next { s with res0 := bits 32 (Int.tdiv n d) } := by
  simp [completeDivide, completeFixed_eq, tdiv]

/-- Fault entry either finds an earlier fault and changes nothing, or records its cause
(60_exceptions.md R172). -/
theorem raiseFault_cases (c : FaultCause) (s : State) :
    (s.fault = true ∧ raiseFault c s = s) ∨
    (s.fault = false ∧ raiseFault c s = { s with fault := true, cause := causeCode c }) := by
  cases h : s.fault <;> simp [raiseFault, h]

/-- The host's clear, by bit 0 of what it writes (10_state.md R23). -/
theorem writeStatus_cases (v : Word) (s : State) :
    (v.getLsbD 0 = true ∧ writeStatus v s = { s with fault := false, cause := 0#4 }) ∨
    (v.getLsbD 0 = false ∧ writeStatus v s = s) := by
  cases h : v.getLsbD 0 <;> simp only [writeStatus, h] <;> simp

/-! ### The register window -/

/-- An offset reaches a register exactly at that register's offset (10_state.md R20). -/
theorem regAt_eq_some_iff (off : Nat) (r : Reg) : regAt off = some r ↔ off = r.offset := by
  constructor
  · intro h
    unfold regAt at h
    split at h <;> first | (obtain rfl := Option.some.inj h; rfl) | cases h
  · rintro rfl
    cases r <;> rfl

/-- What performing an access can do: nothing, answer it, or carry out an accepted write
(20_memory.md R40 to R45). -/
theorem performAccess_cases (a : BusAccess) (s : State) :
    (inWindow a.addr = false ∧ performAccess a s = s) ∨
    (inWindow a.addr = true ∧ accepted a = false ∧ performAccess a s = reply .busError s) ∨
    (inWindow a.addr = true ∧ accepted a = true ∧
      ((∃ addr n, a = .read addr n ∧
          performAccess a s = reply (.data (readOffset (windowOffset addr) s)) s) ∨
       (∃ addr n v, a = .write addr n v ∧
          performAccess a s = writeOffset (windowOffset addr) v s))) := by
  cases hw : inWindow a.addr
  · exact .inl ⟨rfl, by simp [performAccess, hw]⟩
  cases ha : accepted a
  · exact .inr (.inl ⟨rfl, rfl, by simp [performAccess, hw, ha]⟩)
  · refine .inr (.inr ⟨rfl, rfl, ?_⟩)
    cases a with
    | read addr n => exact .inl ⟨addr, n, rfl, by simp [performAccess, hw, ha]⟩
    | write addr n v => exact .inr ⟨addr, n, v, rfl, by simp [performAccess, hw, ha]⟩

/-- What a write at an offset can do (20_memory.md R44, R54). -/
theorem writeOffset_cases (off : Nat) (v : Word) (s : State) :
    (off = 0x04 ∧ writeOffset off v s = reply .done (writeStatus v s)) ∨
    (off = 0x08 ∧ writeOffset off v s = startCommand v s) ∨
    (off = 0x10 ∧ writeOffset off v s = reply .done { s with opa := v }) ∨
    (off = 0x14 ∧ writeOffset off v s = reply .done { s with opb := v }) ∨
    (off = 0x18 ∧ writeOffset off v s = reply .done { s with opc := v }) ∨
    (off ≠ 0x04 ∧ off ≠ 0x08 ∧ off ≠ 0x10 ∧ off ≠ 0x14 ∧ off ≠ 0x18 ∧
      writeOffset off v s = reply .done s) := by
  rcases h : regAt off with _ | r
  · have hne : ∀ r : Reg, off ≠ r.offset := fun r e =>
      absurd ((regAt_eq_some_iff off r).2 e) (by simp [h])
    exact .inr (.inr (.inr (.inr (.inr ⟨hne .status, hne .cmd, hne .opa, hne .opb, hne .opc,
      by simp [writeOffset, h]⟩))))
  · obtain rfl := (regAt_eq_some_iff off r).1 h
    cases r <;> simp [writeOffset, writeReg, regAt, Reg.offset]

/-! ### Commands -/

/-- What a command can do: write the result registers, or fault on a zero divisor; nothing else
changes (10_state.md R26, 60_exceptions.md R170). -/
theorem exec_cases (i : Instr) (s : State) :
    (∃ r0 r1, exec i s = .next { s with res0 := r0, res1 := r1 }) ∨
    exec i s = .next (raiseFault .divZero s) := by
  have one (r : Int) : ∃ r0 r1, completeFixed r s = .next { s with res0 := r0, res1 := r1 } :=
    ⟨_, s.res1, completeFixed_eq r s⟩
  have divide (n d : Int) :
      (∃ r0 r1, completeDivide n d s = .next { s with res0 := r0, res1 := r1 }) ∨
      completeDivide n d s = .next (raiseFault .divZero s) := by
    rw [completeDivide_eq]
    split
    · exact .inr rfl
    · exact .inl ⟨_, s.res1, rfl⟩
  cases i with
  | qdiv | qdivi | gdiv => exact divide _ _
  | isqrt | fsqrt => exact .inl ⟨_, s.res1, rfl⟩
  | trig | clarke | park | revpark => exact .inl ⟨_, _, rfl⟩
  | tofix | fromfix | qconv | qadd | qsub | qmul | qaddi | qsubi | qmuli | gadd | gsub | gmul =>
    exact .inl (one _)

/-! ### Running -/

/-- What running a command word can do (30_encoding.md R60). -/
theorem runWord_cases (w : Word) (s : State) :
    (∃ i, decodeWord w = .ok i ∧ runWord w s = exec i s) ∨
    (∃ e, decodeWord w = .error e ∧ runWord w s = .next (raiseFault .illegalCmd s)) := by
  unfold runWord
  split
  · next i h => exact .inl ⟨i, h, rfl⟩
  · next e h => exact .inr ⟨e, h, rfl⟩

/-- What one moment can do: reset, or an event (or none) and then the block advances
(20_memory.md R50, 70_reset_and_hazards.md R190). -/
theorem tick_cases (s : State) :
    (s.inputs = [] ∧ tick s = advance s) ∨
    (∃ rest, s.inputs = .idle :: rest ∧ tick s = advance { s with inputs := rest }) ∨
    (∃ a rest, s.inputs = .access a :: rest ∧
      tick s = advance (arrive a { s with inputs := rest })) ∨
    (∃ rest, s.inputs = .reset :: rest ∧
      tick s = .next (resetBlock { s with inputs := rest })) := by
  unfold tick
  split
  · next h => exact .inl ⟨h, rfl⟩
  · next rest h => exact .inr (.inl ⟨rest, h, rfl⟩)
  · next a rest h => exact .inr (.inr (.inl ⟨a, rest, h, rfl⟩))
  · next rest h => exact .inr (.inr (.inr ⟨rest, h, rfl⟩))

/-- What advancing can do: complete the command in flight, perform the oldest held access, or
nothing (20_memory.md R50, 60_exceptions.md R185). -/
theorem advance_cases (s : State) :
    (∃ w, s.inFlight = some w ∧ advance s = runWord w (retire s)) ∨
    (s.inFlight = none ∧ s.held = [] ∧ advance s = .next s) ∨
    (∃ a rest, s.inFlight = none ∧ s.held = a :: rest ∧
      advance s = .next (performAccess a { s with held := rest })) := by
  rcases hf : s.inFlight with _ | w
  · rcases hh : s.held with _ | ⟨a, rest⟩
    · exact .inr (.inl ⟨rfl, rfl, by simp [advance, hf, performHeld, hh]⟩)
    · exact .inr (.inr ⟨a, rest, rfl, rfl, by simp [advance, hf, performHeld, hh]⟩)
  · exact .inl ⟨w, rfl, by simp [advance, hf]⟩

end Sys2Proof.Machine
end

