-- ==== Sys2Proof/Laws/PerInstr.lean ====
section
/-!
SUPPORT. The per-command family: what the encoder writes for each command.
-/
namespace Sys2Proof.Laws.EncodesFields

/-- The word of a well-formed command has the command's opcode in bits 7:0, its Q fields in theirs (a
field it does not use is 0), and its reserved bits clear (30_encoding.md R61, R64, R69). -/
def Statement (i : Instr) : Prop :=
  i.WellFormed →
    opField (encode i) = i.opcode ∧ qaField (encode i) = i.qa?.getD 0 ∧
    qbField (encode i) = i.qb?.getD 0 ∧ qrField (encode i) = i.qr?.getD 0 ∧
    reservedClear (encode i) = true

/-- A Q field the command does not use is written as 0, which fits. -/
theorem zeroFits : 0 < 32 := by decide

theorem tofix (qa : Nat) : Statement (.tofix qa) := fun h =>
  packWord_fields (op := 0x01) (by decide) (of_decide_eq_true h) zeroFits zeroFits

theorem fromfix (qa : Nat) : Statement (.fromfix qa) := fun h =>
  packWord_fields (op := 0x02) (by decide) (of_decide_eq_true h) zeroFits zeroFits

theorem qconv (qa qr : Nat) : Statement (.qconv qa qr) := fun h =>
  have ⟨ha, hr⟩ := of_decide_eq_true h
  packWord_fields (op := 0x03) (by decide) ha zeroFits hr

theorem qadd : Statement .qadd := fun _ =>
  packWord_fields (op := 0x08) (by decide) zeroFits zeroFits zeroFits

theorem qsub : Statement .qsub := fun _ =>
  packWord_fields (op := 0x09) (by decide) zeroFits zeroFits zeroFits

theorem qmul (qa : Nat) : Statement (.qmul qa) := fun h =>
  packWord_fields (op := 0x0A) (by decide) (of_decide_eq_true h) zeroFits zeroFits

theorem qdiv (qa : Nat) : Statement (.qdiv qa) := fun h =>
  packWord_fields (op := 0x0B) (by decide) (of_decide_eq_true h) zeroFits zeroFits

theorem qaddi (qa : Nat) : Statement (.qaddi qa) := fun h =>
  packWord_fields (op := 0x0C) (by decide) (of_decide_eq_true h) zeroFits zeroFits

theorem qsubi (qa : Nat) : Statement (.qsubi qa) := fun h =>
  packWord_fields (op := 0x0D) (by decide) (of_decide_eq_true h) zeroFits zeroFits

theorem qmuli : Statement .qmuli := fun _ =>
  packWord_fields (op := 0x0E) (by decide) zeroFits zeroFits zeroFits

theorem qdivi : Statement .qdivi := fun _ =>
  packWord_fields (op := 0x0F) (by decide) zeroFits zeroFits zeroFits

theorem gadd (qa qb qr : Nat) : Statement (.gadd qa qb qr) := fun h =>
  have ⟨ha, hb, hr⟩ := of_decide_eq_true h
  packWord_fields (op := 0x10) (by decide) ha hb hr

theorem gsub (qa qb qr : Nat) : Statement (.gsub qa qb qr) := fun h =>
  have ⟨ha, hb, hr⟩ := of_decide_eq_true h
  packWord_fields (op := 0x11) (by decide) ha hb hr

theorem gmul (qa qb qr : Nat) : Statement (.gmul qa qb qr) := fun h =>
  have ⟨ha, hb, hr⟩ := of_decide_eq_true h
  packWord_fields (op := 0x12) (by decide) ha hb hr

theorem gdiv (qa qb qr : Nat) : Statement (.gdiv qa qb qr) := fun h =>
  have ⟨ha, hb, hr⟩ := of_decide_eq_true h
  packWord_fields (op := 0x13) (by decide) ha hb hr

theorem isqrt : Statement .isqrt := fun _ =>
  packWord_fields (op := 0x18) (by decide) zeroFits zeroFits zeroFits

theorem fsqrt (qa : Nat) : Statement (.fsqrt qa) := fun h =>
  packWord_fields (op := 0x19) (by decide) (of_decide_eq_true h) zeroFits zeroFits

theorem trig : Statement .trig := fun _ =>
  packWord_fields (op := 0x20) (by decide) zeroFits zeroFits zeroFits

theorem clarke : Statement .clarke := fun _ =>
  packWord_fields (op := 0x21) (by decide) zeroFits zeroFits zeroFits

theorem park : Statement .park := fun _ =>
  packWord_fields (op := 0x22) (by decide) zeroFits zeroFits zeroFits

theorem revpark : Statement .revpark := fun _ =>
  packWord_fields (op := 0x23) (by decide) zeroFits zeroFits zeroFits

end Sys2Proof.Laws.EncodesFields
end

