-- ==== Sys2Proof/Tests/Slice0.lean ====
section
/-!
SUPPORT. The model's own tests. Expected values come from spec/: the encodings of 30_encoding.md, the
vectors V-… of 95_test_vectors.md (named beside each test) and the corner cases of the rules. The last
part shows, for each statement with hypotheses, a concrete case that meets them.
-/
namespace Sys2Proof.Tests
open Sys2Proof Sys2Proof.Machine Sys2Proof.Claims

/-! ### Helpers -/

/-- Reset with these operands. -/
def operands (a b c : Word) : State := { State.reset with opa := a, opb := b, opc := c }

/-- RES0, RES1 and STATUS after one step that runs the word. -/
def after (s : State) (w : Nat) : Option (Word × Word × Word) :=
  match step (s.withFetchWord 32 w) with
  | .next t => some (t.res0, t.res1, t.statusWord)
  | _ => none

/-- RES0 and RES1 of a state, for the operations over a named table. -/
def results (s : State) : Word × Word := (s.res0, s.res1)

/-! ### Well-formedness: each check refuses a Q of 32 (30_encoding.md R62) -/

theorem test_ill_formed_tofix :
    Instr.wellFormed (.tofix 32) = false := by decide

theorem test_ill_formed_fromfix :
    Instr.wellFormed (.fromfix 32) = false := by decide

theorem test_ill_formed_qconv :
    Instr.wellFormed (.qconv 32 31) = false ∧
    Instr.wellFormed (.qconv 31 32) = false := by decide

theorem test_ill_formed_qmul :
    Instr.wellFormed (.qmul 32) = false := by decide

theorem test_ill_formed_qdiv :
    Instr.wellFormed (.qdiv 32) = false := by decide

theorem test_ill_formed_qaddi :
    Instr.wellFormed (.qaddi 32) = false := by decide

theorem test_ill_formed_qsubi :
    Instr.wellFormed (.qsubi 32) = false := by decide

theorem test_ill_formed_gadd :
    Instr.wellFormed (.gadd 32 31 31) = false ∧
    Instr.wellFormed (.gadd 31 32 31) = false ∧
    Instr.wellFormed (.gadd 31 31 32) = false := by decide

theorem test_ill_formed_gsub :
    Instr.wellFormed (.gsub 32 31 31) = false ∧
    Instr.wellFormed (.gsub 31 32 31) = false ∧
    Instr.wellFormed (.gsub 31 31 32) = false := by decide

theorem test_ill_formed_gmul :
    Instr.wellFormed (.gmul 32 31 31) = false ∧
    Instr.wellFormed (.gmul 31 32 31) = false ∧
    Instr.wellFormed (.gmul 31 31 32) = false := by decide

theorem test_ill_formed_gdiv :
    Instr.wellFormed (.gdiv 32 31 31) = false ∧
    Instr.wellFormed (.gdiv 31 32 31) = false ∧
    Instr.wellFormed (.gdiv 31 31 32) = false := by decide

theorem test_ill_formed_fsqrt :
    Instr.wellFormed (.fsqrt 32) = false := by decide

theorem test_well_formed_limit : Instr.wellFormed (.gdiv 31 31 31) = true := by decide

/-! ### Decoding: one word for every command, written out from 30_encoding.md R61 and R64
(bit 31 first: 000RRRRR 000BBBBB 000AAAAA OOOOOOOO) -/

theorem test_decode_tofix :
    decodeWord 0b00000000000000000001111100000001#32 = .ok (.tofix 31) := by decide

theorem test_decode_fromfix :
    decodeWord 0b00000000000000000001000000000010#32 = .ok (.fromfix 16) := by decide

theorem test_decode_qconv :
    decodeWord 0b00001000000000000001000000000011#32 = .ok (.qconv 16 8) := by decide

theorem test_decode_qadd :
    decodeWord 0b00000000000000000000000000001000#32 = .ok .qadd := by decide

theorem test_decode_qsub :
    decodeWord 0b00000000000000000000000000001001#32 = .ok .qsub := by decide

theorem test_decode_qmul :
    decodeWord 0b00000000000000000000111100001010#32 = .ok (.qmul 15) := by decide

theorem test_decode_qdiv :
    decodeWord 0b00000000000000000000000100001011#32 = .ok (.qdiv 1) := by decide

theorem test_decode_qaddi :
    decodeWord 0b00000000000000000000001000001100#32 = .ok (.qaddi 2) := by decide

theorem test_decode_qsubi :
    decodeWord 0b00000000000000000000010000001101#32 = .ok (.qsubi 4) := by decide

theorem test_decode_qmuli :
    decodeWord 0b00000000000000000000000000001110#32 = .ok .qmuli := by decide

theorem test_decode_qdivi :
    decodeWord 0b00000000000000000000000000001111#32 = .ok .qdivi := by decide

theorem test_decode_gadd :
    decodeWord 0b00001100000010000001000000010000#32 = .ok (.gadd 16 8 12) := by decide

theorem test_decode_gsub :
    decodeWord 0b00000100000000100000000100010001#32 = .ok (.gsub 1 2 4) := by decide

theorem test_decode_gmul :
    decodeWord 0b00011101000111100001111100010010#32 = .ok (.gmul 31 30 29) := by decide

theorem test_decode_gdiv :
    decodeWord 0b00000001000100000000100000010011#32 = .ok (.gdiv 8 16 1) := by decide

theorem test_decode_isqrt :
    decodeWord 0b00000000000000000000000000011000#32 = .ok .isqrt := by decide

theorem test_decode_fsqrt :
    decodeWord 0b00000000000000000000100000011001#32 = .ok (.fsqrt 8) := by decide

theorem test_decode_trig :
    decodeWord 0b00000000000000000000000000100000#32 = .ok .trig := by decide

theorem test_decode_clarke :
    decodeWord 0b00000000000000000000000000100001#32 = .ok .clarke := by decide

theorem test_decode_park :
    decodeWord 0b00000000000000000000000000100010#32 = .ok .park := by decide

theorem test_decode_revpark :
    decodeWord 0b00000000000000000000000000100011#32 = .ok .revpark := by decide

/-- The host's question goes through the bytes (20_memory.md R43). -/
theorem test_decode_table_word : decodeTableWord 32 0x0C081012 = some (.gmul 16 8 12) := by decide

theorem test_decode_bytes : decodeBytes [0x0A#8, 0x0F#8, 0x00#8, 0x00#8] = .ok (.qmul 15) := by decide

theorem test_decode_length : decodeBytes [0x0A#8, 0x0F#8] = .error (.wrongLength 2) := by decide

/-- V-E02, V-E10: reserved opcodes. -/
theorem test_decode_reserved_opcode :
    decodeWord 0x00000000#32 = .error (.reservedOpcode 0) ∧
    decodeWord 0x00000024#32 = .error (.reservedOpcode 0x24) := by decide

/-- V-E04 to V-E06: reserved bits. -/
theorem test_decode_reserved_bits :
    decodeWord 0x00002008#32 = .error .reservedBits ∧
    decodeWord 0x00200008#32 = .error .reservedBits ∧
    decodeWord 0x20000008#32 = .error .reservedBits := by decide

/-- V-E07: unused Q fields are ignored. -/
theorem test_decode_unused_fields : decodeWord 0x1F1F1F08#32 = .ok .qadd := by decide

/-- 30_encoding.md R69: the words of the examples. -/
theorem test_encode_examples :
    encode (.qmul 15) = 0x00000F0A#32 ∧ encode (.gmul 16 8 12) = 0x0C081012#32 ∧
    encode .trig = 0x00000020#32 := by decide

/-- 30_encoding.md R69: what the assembler writes and refuses. -/
theorem test_assemble :
    assemble { mnemonic := "QMUL", qa := some 15 } = .ok 0x00000F0A#32 ∧
    assemble { mnemonic := "QADD", qa := some 7 } = .error .unusedField ∧
    assemble { mnemonic := "QMUL", qa := some 32 } = .error .qOutOfRange ∧
    assemble { mnemonic := "QMOD" } = .error .unknownMnemonic := by decide

/-! ### One step of each command (95_test_vectors.md §2) -/

/-- V-C03: negative shifts exactly. -/
theorem test_tofix_c03 : after (operands 0xFFFFFFFB#32 0x00000000#32 0x00000000#32) 0x00000401 =
    some (0xFFFFFFB0#32, 0x00000000#32, 0x00000000#32) := by decide

/-- V-C04: odd n, QA = 31. -/
theorem test_tofix_c04 : after (operands 0x00000001#32 0x00000000#32 0x00000000#32) 0x00001F01 =
    some (0x80000000#32, 0x00000000#32, 0x00000000#32) := by decide

/-- V-C08: -1.5 floors to -2. -/
theorem test_fromfix_c08 : after (operands 0xFFFE8000#32 0x00000000#32 0x00000000#32) 0x00001002 =
    some (0xFFFFFFFE#32, 0x00000000#32, 0x00000000#32) := by decide

/-- V-C10: smallest, QA = 31. -/
theorem test_fromfix_c10 : after (operands 0x80000000#32 0x00000000#32 0x00000000#32) 0x00001F02 =
    some (0xFFFFFFFF#32, 0x00000000#32, 0x00000000#32) := by decide

/-- V-C14: 1.0 to Q31 wraps. -/
theorem test_qconv_c14 : after (operands 0x00010000#32 0x00000000#32 0x00000000#32) 0x1F001003 =
    some (0x80000000#32, 0x00000000#32, 0x00000000#32) := by decide

/-- V-C15: right shift floors. -/
theorem test_qconv_c15 : after (operands 0xFFFE7FFF#32 0x00000000#32 0x00000000#32) 0x08001003 =
    some (0xFFFFFE7F#32, 0x00000000#32, 0x00000000#32) := by decide

/-- V-A02: wraps. -/
theorem test_qadd_a02 : after (operands 0x7FFFFFFF#32 0x00000001#32 0x00000000#32) 0x00000008 =
    some (0x80000000#32, 0x00000000#32, 0x00000000#32) := by decide

/-- V-A03: unused QA ignored (D32). -/
theorem test_qadd_a03 : after (operands 0x00018000#32 0x00024000#32 0x00000000#32) 0x00000708 =
    some (0x0003C000#32, 0x00000000#32, 0x00000000#32) := by decide

/-- V-A04: wraps. -/
theorem test_qsub_a04 : after (operands 0x80000000#32 0x00000001#32 0x00000000#32) 0x00000009 =
    some (0x7FFFFFFF#32, 0x00000000#32, 0x00000000#32) := by decide

/-- V-A07: floor: -1, not 0. -/
theorem test_qmul_a07 : after (operands 0xFFFFFFFF#32 0x00000001#32 0x00000000#32) 0x0000100A =
    some (0xFFFFFFFF#32, 0x00000000#32, 0x00000000#32) := by decide

/-- V-A08: (-1) * (-1) in Q31 wraps. -/
theorem test_qmul_a08 : after (operands 0x80000000#32 0x80000000#32 0x00000000#32) 0x00001F0A =
    some (0x80000000#32, 0x00000000#32, 0x00000000#32) := by decide

/-- V-A13: truncates toward zero. -/
theorem test_qdiv_a13 : after (operands 0xFFFFFFFF#32 0x00000003#32 0x00000000#32) 0x0000100B =
    some (0xFFFFAAAB#32, 0x00000000#32, 0x00000000#32) := by decide

/-- V-A19: DIV_ZERO. -/
theorem test_qdiv_a19 : after (operands 0x00000005#32 0x00000000#32 0x00000000#32) 0x0000100B =
    some (0x00000000#32, 0x00000000#32, 0x00000021#32) := by decide

/-- V-I01: 1.5 + 2 = 3.5. -/
theorem test_qaddi_i01 : after (operands 0x00018000#32 0x00000002#32 0x00000000#32) 0x0000100C =
    some (0x00038000#32, 0x00000000#32, 0x00000000#32) := by decide

/-- V-I02: integer shift wraps. -/
theorem test_qaddi_i02 : after (operands 0x00000000#32 0x00000001#32 0x00000000#32) 0x00001F0C =
    some (0x80000000#32, 0x00000000#32, 0x00000000#32) := by decide

/-- V-I03: 1.5 - 2 = -0.5. -/
theorem test_qsubi_i03 : after (operands 0x00018000#32 0x00000002#32 0x00000000#32) 0x0000100D =
    some (0xFFFF8000#32, 0x00000000#32, 0x00000000#32) := by decide

/-- V-I05: wraps. -/
theorem test_qmuli_i05 : after (operands 0x40000000#32 0x00000004#32 0x00000000#32) 0x0000000E =
    some (0x00000000#32, 0x00000000#32, 0x00000000#32) := by decide

/-- V-I06: sign. -/
theorem test_qmuli_i06 : after (operands 0xFFFE8000#32 0xFFFFFFFD#32 0x00000000#32) 0x0000000E =
    some (0x00048000#32, 0x00000000#32, 0x00000000#32) := by decide

/-- V-I09: toward zero. -/
theorem test_qdivi_i09 : after (operands 0x00000007#32 0xFFFFFFFE#32 0x00000000#32) 0x0000000F =
    some (0xFFFFFFFD#32, 0x00000000#32, 0x00000000#32) := by decide

/-- V-I11: wraps. -/
theorem test_qdivi_i11 : after (operands 0x80000000#32 0xFFFFFFFF#32 0x00000000#32) 0x0000000F =
    some (0x80000000#32, 0x00000000#32, 0x00000000#32) := by decide

/-- V-G01: 1.5 + 0.25 = 1.75 in Q12. -/
theorem test_gadd_g01 : after (operands 0x00018000#32 0x00000040#32 0x00000000#32) 0x0C081010 =
    some (0x00001C00#32, 0x00000000#32, 0x00000000#32) := by decide

/-- V-G03: conversion to Q31 wraps. -/
theorem test_gadd_g03 : after (operands 0x00010000#32 0x00000001#32 0x00000000#32) 0x1F001010 =
    some (0x00000000#32, 0x00000000#32, 0x00000000#32) := by decide

/-- V-G02: 1.5 - 0.25 = 1.25 in Q12. -/
theorem test_gsub_g02 : after (operands 0x00018000#32 0x00000040#32 0x00000000#32) 0x0C081011 =
    some (0x00001400#32, 0x00000000#32, 0x00000000#32) := by decide

/-- V-G06: left shift wraps. -/
theorem test_gmul_g06 : after (operands 0xFFFFFFFD#32 0x00000005#32 0x00000000#32) 0x1F000012 =
    some (0x80000000#32, 0x00000000#32, 0x00000000#32) := by decide

/-- V-G07: QA + QB = 62. -/
theorem test_gmul_g07 : after (operands 0x80000000#32 0x80000000#32 0x00000000#32) 0x1F1F1F12 =
    some (0x80000000#32, 0x00000000#32, 0x00000000#32) := by decide

/-- V-G10: -6.0. -/
theorem test_gdiv_g10 : after (operands 0xFFFE8000#32 0x00000040#32 0x00000000#32) 0x0C081013 =
    some (0xFFFFA000#32, 0x00000000#32, 0x00000000#32) := by decide

/-- V-G11: converted divisor is 0: DIV_ZERO. -/
theorem test_gdiv_g11 : after (operands 0x00018000#32 0x00000010#32 0x00000000#32) 0x02081013 =
    some (0x00000000#32, 0x00000000#32, 0x00000021#32) := by decide

/-- V-S04: cap reached: 128, 64, 32, 16, 8, 4, 2. -/
theorem test_isqrt_s04 : after (operands 0x00000001#32 0x00000000#32 0x00000000#32) 0x00000018 =
    some (0x00000002#32, 0x00000000#32, 0x00000000#32) := by decide

/-- V-S16: 8192, 135167, 75527, 51980, 46646, 46341, 46340. -/
theorem test_isqrt_s16 : after (operands 0x7FFFFFFF#32 0x00000000#32 0x00000000#32) 0x00000018 =
    some (0x0000B504#32, 0x00000000#32, 0x00000000#32) := by decide

/-- V-S18: sqrt(2.0) in Q8 = 1.4140625. -/
theorem test_fsqrt_s18 : after (operands 0x00000200#32 0x00000000#32 0x00000000#32) 0x00000819 =
    some (0x0000016A#32, 0x00000000#32, 0x00000000#32) := by decide

/-- V-S22: pre-shift gives 0x80000000, negative. -/
theorem test_fsqrt_s22 : after (operands 0x00008000#32 0x00000000#32 0x00000000#32) 0x00001019 =
    some (0x00000000#32, 0x00000000#32, 0x00000000#32) := by decide

/-- V-T04: just below 180°: i = 255. -/
theorem test_trig_t04 : after (operands 0x00007FFF#32 0x00000000#32 0x00000000#32) 0x00000020 =
    some (0xFFFF8002#32, 0x00000000#32, 0x00000000#32) := by decide

/-- V-T12: low half 0xC000 = -16384. -/
theorem test_trig_t12 : after (operands 0x0000C000#32 0x00000000#32 0x00000000#32) 0x00000020 =
    some (0x00000000#32, 0xFFFF8002#32, 0x00000000#32) := by decide

/-- V-X03: saturates to 32767. -/
theorem test_clarke_x03 : after (operands 0xFFFF8000#32 0xFFFF8000#32 0x00000000#32) 0x00000021 =
    some (0xFFFF8000#32, 0x00007FFF#32, 0x00000000#32) := by decide

/-- V-X12: raw = -32768 exactly: nudge without clamp. -/
theorem test_clarke_x12 : after (operands 0xFFFFDDBC#32 0x00007FFC#32 0x00000000#32) 0x00000021 =
    some (0xFFFFDDBC#32, 0xFFFF8001#32, 0x00000000#32) := by decide

/-- V-X25: 90°. -/
theorem test_park_x25 : after (operands 0x000003E8#32 0x000007D0#32 0x00004000#32) 0x00000022 =
    some (0xFFFFF830#32, 0x000003E7#32, 0x00000000#32) := by decide

/-- V-X32: 90°. -/
theorem test_revpark_x32 : after (operands 0x000003E8#32 0x000007D0#32 0x00004000#32) 0x00000023 =
    some (0x000007CF#32, 0xFFFFFC18#32, 0x00000000#32) := by decide

/-! ### Over the reference table (41_trig.md R122) -/

/-- The reference table meets R121, item 5 included. -/
theorem test_reference_table_conforms : sinTableRef.Conforms := by
  refine ⟨by decide, by decide, ?_⟩
  decide

/-- V-T17: REF: 135°. -/
theorem test_trig_t17_reference :
    results (trigResults sinTableRef (operands 0x00006000#32 0x00000000#32 0x00000000#32)) =
      (0xFFFFA57E#32, 0x000059F3#32) := by decide

/-- V-X29: REF: q clamps and is nudged. -/
theorem test_park_x29_reference :
    results (parkResults sinTableRef (operands 0xFFFF8000#32 0xFFFF8000#32 0xFFFFE000#32)) =
      (0xFFFF8001#32, 0xFFFFFF71#32) := by decide

/-- V-X34: REF: alpha wraps, sign flips. -/
theorem test_revpark_x34_reference :
    results (revparkResults sinTableRef (operands 0x00007FFF#32 0x00007FFF#32 0x00002000#32)) =
      (0xFFFFB473#32, 0xFFFFFF71#32) := by decide

/-! ### Faults, the window and reset -/

/-- V-E09: an illegal QDIV by 0 takes ILLEGAL_CMD. -/
theorem test_illegal_before_division : after (operands 5#32 0#32 0#32) 0x0000200B =
    some (0#32, 0#32, 0x00000011#32) := by decide

/-- V-E12: the first cause is kept. -/
theorem test_first_fault_kept :
    after { operands 5#32 0#32 0#32 with fault := true, cause := 2#4 } 0x00000000 =
      some (0#32, 0#32, 0x00000021#32) := by decide

/-- V-E12: writing 1 to bit 0 clears, writing 0xFFFFFFFE does not. -/
theorem test_status_clear :
    (writeStatus 1#32 { State.reset with fault := true, cause := 2#4 }).statusWord = 0#32 ∧
    (writeStatus 0xFFFFFFFE#32 { State.reset with fault := true, cause := 2#4 }).statusWord =
      0x00000021#32 := by decide

/-- V-M11: every register after reset. -/
theorem test_reset_reads :
    readOffset 0x00 State.reset = 0x4C574D01#32 ∧
    ∀ off < 64, off ≠ 0 → readOffset off State.reset = 0#32 := by decide

/-- V-M06: a two-byte write to CMD gets a bus error and starts nothing. -/
theorem test_narrow_cmd_write :
    performAccess (.write (Config.base + 0x08) .half 0x000A#32) State.reset =
      { State.reset with replies := [.busError] } := by
  simp [performAccess, inWindow, accepted, BusAccess.addr, BusAccess.size, reply, State.reset]

/-- V-M07: a four-byte read at offset 2 gets a bus error. -/
theorem test_misaligned_read :
    performAccess (.read (Config.base + 0x02) .word) State.reset =
      { State.reset with replies := [.busError] } := by
  simp [performAccess, inWindow, accepted, windowOffset, BusAccess.addr, BusAccess.size, reply,
    State.reset]

/-- V-M10: a CMD write stores the word, legal or not. -/
theorem test_cmd_write_stores :
    performAccess (.write (Config.base + 0x08) .word 0x000000FF#32) State.reset =
      { State.reset with cmd := 0x000000FF#32, inFlight := some 0x000000FF#32 } := by
  simp [performAccess, inWindow, accepted, windowOffset, BusAccess.addr, BusAccess.size,
    writeOffset, regAt, writeReg, startCommand]

/-- 70_reset_and_hazards.md R190: a reset abandons the command in flight and drops what is held. -/
theorem test_reset_abandons :
    step { operands 1#32 2#32 0#32 with
        cmd := 0x08#32, inFlight := some 0x08#32, held := [.read 0 .word], inputs := [.reset] } =
      .next State.reset := rfl

/-! ### Every statement with hypotheses has a case that meets them -/

/-- DecodeInvertsEncode, UnusedQFieldsAreIgnored (first part). -/
theorem witness_well_formed : Instr.WellFormed (.gmul 31 0 31) := by decide

theorem witness_unused_fields :
    Instr.WellFormed (.qmul 31) ∧ (31 : Nat) < 32 ∧ (7 : Nat) < 32 ∧ (0 : Nat) < 32 ∧
    (∀ q, Instr.qa? (.qmul 31) = some q → 31 = q) ∧ (∀ q, Instr.qb? (.qmul 31) = some q → 7 = q) ∧
    (∀ q, Instr.qr? (.qmul 31) = some q → 0 = q) := by
  simp [Instr.qa?, Instr.qb?, Instr.qr?, Instr.WellFormed, Instr.wellFormed]

theorem witness_reserved_bits :
    (0x2000#32).extractLsb' 13 3 ≠ 0#3 ∧ (0x800000#32).extractLsb' 21 3 ≠ 0#3 ∧
    (0x80000000#32).extractLsb' 29 3 ≠ 0#3 := by decide

/-- LegalWordsAreThoseOfTheOpcodeTable, CmdWriteOfIllegalWordFaults. -/
theorem witness_legal_and_illegal_words :
    LegalWord 0x1F1F1F13#32 ∧ LegalWord 0x00000001#32 ∧ ¬ LegalWord 0x00000000#32 ∧
    ¬ LegalWord 0x00000024#32 ∧ ¬ LegalWord 0x00002008#32 := by decide

/-- DecodedCommandsReadTheirFields, ReservedWordsAreRefusedAndAllOthersExecute (its refused case:
`test_decode_reserved_opcode`, `test_decode_reserved_bits`). -/
theorem witness_decoded : decodeWord 0x1F001F13#32 = .ok (.gdiv 31 0 31) := by decide

/-- AssembledLinesDecodeToWhatWasWritten. -/
theorem witness_assembled :
    assemble { mnemonic := "GMUL", qa := some 16, qb := some 8, qr := some 12 } =
      .ok 0x0C081012#32 := by decide

/-- StepRunsTheDecodedCommand, one case for each thing that may arrive. -/
theorem witness_command_in_flight (es : List HostEvent) :
    let s : State := { operands 6#32 7#32 0#32 with
      cmd := 0x0E#32, inFlight := some 0x0E#32, inputs := es }
    s.inFlight = some 0x0E#32 ∧ decodeWord 0x0E#32 = .ok .qmuli ∧ s.inputs = es := by
  exact ⟨rfl, by decide, rfl⟩

/-- ReadsReturnTheRegisterAndChangeNothing, ReadOnlyAndReservedOffsetsIgnoreWrites: the ends of the
ranges. -/
theorem witness_offsets :
    (0 : Nat) < 16 ∧ 15 < 16 ∧
    0x00 ∈ [0x00, 0x20, 0x24, 0x0C, 0x1C, 0x28, 0x2C, 0x30, 0x34, 0x38, 0x3C] ∧
    0x3C ∈ [0x0C, 0x1C, 0x28, 0x2C, 0x30, 0x34, 0x38, 0x3C] := by decide

/-- OtherAccessesInTheWindowGetABusError: narrow, misaligned at the last byte, and accepted. -/
theorem witness_window_accesses :
    (BusAccess.read (Config.base + 0) .byte).addr = Config.base + 0 ∧
    (BusAccess.read (Config.base + 0) .byte).size ≠ .word ∧
    (BusAccess.read (Config.base + 0x3F) .word).addr = Config.base + 0x3F ∧ 0x3F < 0x40 ∧
    0x3F % 4 ≠ 0 ∧ (BusAccess.write (Config.base + 0x3C) .word 1#32).size = .word ∧
    0x3C % 4 = 0 :=
  ⟨rfl, by decide, rfl, by decide, by decide, rfl, by decide⟩

/-- AccessesOutsideTheWindowAreNotAnswered: the first address past the window. -/
theorem witness_outside_window :
    Config.base + 0x40 ≤ (BusAccess.read (Config.base + 0x40) .word).addr := le_rfl

/-- AccessesArrivingInFlightAreOnlyHeld, RunsAreSequentialInArrivalOrder. -/
theorem witness_run_without_reset :
    let s : State := { operands 1#32 2#32 0#32 with
      cmd := 0x08#32, inFlight := some 0x08#32
      held := [.read Config.base .word], inputs := [.access (.read Config.base .word), .idle] }
    s.inFlight = some 0x08#32 ∧ HostEvent.reset ∉ s.inputs := by
  exact ⟨rfl, by simp⟩

/-- ResetGivesTheResetValues. -/
theorem witness_reset_arrives :
    ({ operands 1#32 2#32 3#32 with inputs := [.reset, .idle] } : State).inputs = [.reset, .idle] :=
  rfl

/-- EveryStepKeepsTheInvariant: a faulting divide in flight. -/
theorem witness_invariant :
    let s : State := { operands 1#32 0#32 0#32 with cmd := 0x0F#32, inFlight := some 0x0F#32 }
    BlockInv s ∧ step s = .next
      { s with inFlight := none, replies := [.done], fault := true, cause := 2#4 } :=
  ⟨by decide, rfl⟩

/-- OnlyDividesFaultAndAFaultChangesOnlyStatus: a nonzero divisor that converts to 0 (V-G11), and a
command that does not divide. -/
theorem witness_divides_by_zero :
    DividesByZero (.gdiv 16 8 2) (operands 1#32 0x10#32 0#32) ∧
    ¬ DividesByZero .qmuli (operands 1#32 0#32 0#32) :=
  ⟨.inr (.inr ⟨16, 8, 2, rfl, by decide, by decide⟩), by simp [DividesByZero]⟩

/-- OneResultCommandsKeepRes1. -/
theorem witness_one_result :
    Instr.isqrt ≠ .trig ∧ Instr.isqrt ≠ .clarke ∧ Instr.isqrt ≠ .park ∧ Instr.isqrt ≠ .revpark := by
  decide

/-- FromfixFloorsAndUndoesTofix, second part, at both ends of the range. -/
theorem witness_tofix_fits :
    -2 ^ 31 ≤ (0x80000000#32).toInt * 2 ^ 0 ∧ (0x80000000#32).toInt * 2 ^ 0 < 2 ^ 31 ∧
    -2 ^ 31 ≤ (0x00007FFF#32).toInt * 2 ^ 16 ∧ (0x00007FFF#32).toInt * 2 ^ 16 < 2 ^ 31 := by decide

/-- QdivTruncatesTheShiftedDividend, QdiviTruncates. -/
theorem witness_divisors :
    (operands 1#32 0xFFFFFFFF#32 0#32).opb ≠ 0#32 ∧ (operands 1#32 0#32 0#32).opb = 0#32 ∧
    (operands 0x80000000#32 0xFFFFFFFF#32 0#32).opa = 0x80000000#32 ∧
    (operands 0x80000000#32 0xFFFFFFFF#32 0#32).opb = 0xFFFFFFFF#32 := by decide

/-- GaddAndGsubConvertThenAdd, GdivDividesInTheResultFormat: a left shift, a right shift, and a
nonzero divisor that converts to 0 (V-G11). -/
theorem witness_conversions :
    ConvertsTo (0x00010000#32).toInt 16 31 (-2147483648) ∧
    ConvertsTo (0x00000040#32).toInt 8 2 1 ∧ ConvertsTo (0x00000010#32).toInt 8 2 0 := by
  refine ⟨⟨⟨-1, by decide⟩, by decide, by decide⟩, ⟨by decide, by decide⟩, by decide, by decide⟩

/-- GmulConvertsTheExactProduct, SixtyFourBitDatapath…, ThirtyTwoBitDatapathAgrees. -/
theorem witness_formats :
    (0 : Nat) + 0 < 31 ∧ 31 ≤ 31 + (31 : Nat) ∧ (31 : Nat) < 32 ∧ (0x10#32 ≠ 0#32) := by decide

/-- DivisionFollowsTheSignTable: the dividend and the divisor of QDIVI in each clause (R98's examples),
and of a QDIV and a GDIV. -/
theorem witness_sign_table :
    ((operands 7#32 2#32 0#32).opa.toInt = 7 ∧ (operands 7#32 2#32 0#32).opb.toInt = 2) ∧
    ((operands 0xFFFFFFF9#32 2#32 0#32).opa.toInt = -7 ∧
      (operands 7#32 0xFFFFFFFE#32 0#32).opb.toInt = -2) ∧
    ((operands 0#32 0xFFFFFFFB#32 0#32).opa.toInt = 0 ∧
      (operands 0#32 0xFFFFFFFB#32 0#32).opb.toInt = -5) ∧
    (operands 1#32 0#32 0#32).opb.toInt = 0 ∧
    (operands 1#32 3#32 0#32).opa.toInt * 2 ^ 31 = 2147483648 ∧
    (ConvertsTo (operands 0x00018000#32 0x40#32 0#32).opa.toInt 16 12 0x1800 ∧
      ConvertsTo (operands 0x00018000#32 0x40#32 0#32).opb.toInt 8 12 0x400) ∧
    ConvertsTo (operands 1#32 0x10#32 0#32).opb.toInt 8 2 0 := by
  refine ⟨by decide, by decide, by decide, by decide, by decide,
    ⟨⟨by decide, by decide⟩, ⟨0, by decide⟩, by decide, by decide⟩, by decide, by decide⟩

/-- SixtyFourBitDatapathDivides: the converted divisor is nonzero. -/
theorem witness_converted_divisor :
    (operands 1#32 0x40#32 0#32).opb ≠ 0#32 ∧
    ((operands 1#32 0x40#32 0#32).opb.sshiftRight (8 - 2)) ≠ 0#32 := by decide

/-- IsqrtRunsAtMostSixNewtonSteps: not positive, the cap reached (V-S04), converged (V-S10). -/
theorem witness_sqrt_runs :
    (0x80000000#32).toInt ≤ 0 ∧ 0 < (1#32).toInt ∧
    (∀ k < 6, guess (1#32).toInt (k + 1) ≠ guess (1#32).toInt k) ∧
    guess (100#32).toInt 6 = guess (100#32).toInt 5 := by decide

/-- IsqrtIsTheFloorRootOrOneMore, SquareRootNeverDividesByZeroOrOverflows: the ends of the ranges. -/
theorem witness_sqrt_ranges :
    0 < (0x7FFFFFFF#32).toInt ∧ 46340 ≤ 46340 ∧
    (operands 0x7FFEA810#32 0#32 0#32).opa = BitVec.ofNat 32 (46340 * 46340) ∧
    (0 : Int) < 2147483647 ∧ (2147483647 : Int) < 2 ^ 31 ∧ 5 < 6 := by decide

/-- TrigFoldsTheQuadrants, TrigAtTheCanonicalAngles, TransformsAtZeroAndAtAQuarterTurn. -/
theorem witness_angles :
    (0x00003FFF#32).extractLsb' 14 2 = 0#2 ∧ (0x00004000#32).extractLsb' 14 2 = 1#2 ∧
    (0x00008000#32).extractLsb' 14 2 = 2#2 ∧ (0x0000FFFF#32).extractLsb' 14 2 = 3#2 ∧
    low16 0x00010000#32 = 0 ∧ low16 0x12344000#32 = 16384 ∧ low16 0x00008000#32 = -32768 ∧
    low16 0x00007FFF#32 = 32767 ∧ low16 0x0000C000#32 = -16384 ∧ low16 0xFFFFFFFF#32 = -1 := by
  decide

/-- TrigReadsOnlyBits15To6: two registers that differ in every other bit. -/
theorem witness_same_step :
    (0xFFFF403F#32).extractLsb' 6 10 = (0x00004000#32).extractLsb' 6 10 := by decide

/-- EveryConformingTableIsAdmitted: `test_reference_table_conforms` is a table other than the block's
own that meets its hypothesis; here its entries that the shaping could touch. -/
theorem witness_conforming_table :
    shapeTable sinTableRef 128#8 = sinTableRef 128#8 ∧ sinTableRef 128#8 = 0x5A82#16 := by decide

end Sys2Proof.Tests
end

section
/-!
The register window at an address BASE + offset, and STATUS as a word (10_state.md R20 to R25,
20_memory.md R41 to R45).
-/
namespace Sys2Proof.Machine

/-! ### An accepted access -/

/-- A four-byte read at an aligned offset of the window is answered with what stands there (R42). -/
theorem performAccess_read_word {off : Nat} (hlt : off < 0x40) (halign : off % 4 = 0) (s : State) :
    performAccess (.read (Config.base + off) .word) s = reply (.data (readOffset off s)) s := by
  simp [performAccess, inWindow, accepted, windowOffset, BusAccess.addr, BusAccess.size, hlt, halign]

/-- A four-byte write at an aligned offset of the window is carried out there (R42). -/
theorem performAccess_write_word {off : Nat} (hlt : off < 0x40) (halign : off % 4 = 0) (v : Word)
    (s : State) :
    performAccess (.write (Config.base + off) .word v) s = writeOffset off v s := by
  simp [performAccess, inWindow, accepted, windowOffset, BusAccess.addr, BusAccess.size, hlt, halign]

/-! ### A register by its name -/

theorem Reg.offset_lt (r : Reg) : r.offset < 0x40 := by cases r <;> decide

theorem Reg.offset_aligned (r : Reg) : r.offset % 4 = 0 := by cases r <;> decide

@[simp] theorem readOffset_offset (r : Reg) (s : State) : readOffset r.offset s = readReg r s := by
  rw [readOffset, (regAt_eq_some_iff _ r).2 rfl]

@[simp] theorem writeOffset_offset (r : Reg) (v : Word) (s : State) :
    writeOffset r.offset v s = writeReg r v s := by
  rw [writeOffset, (regAt_eq_some_iff _ r).2 rfl]

theorem performAccess_read_reg (r : Reg) (s : State) :
    performAccess (.read (Config.base + r.offset) .word) s = reply (.data (readReg r s)) s := by
  rw [performAccess_read_word r.offset_lt r.offset_aligned, readOffset_offset]

theorem performAccess_write_reg (r : Reg) (v : Word) (s : State) :
    performAccess (.write (Config.base + r.offset) .word v) s = writeReg r v s := by
  rw [performAccess_write_word r.offset_lt r.offset_aligned, writeOffset_offset]

/-! ### STATUS as a word -/

/-- The layout of STATUS for each cause and FAULT (R22). -/
theorem statusLayout (c : BitVec 4) (f : Bool) :
    let w : Word := 0#24 ++ c ++ 0#3 ++ BitVec.ofBool f
    w = (BitVec.zeroExtend 32 c <<< 4) ||| (if f then 1#32 else 0#32) ∧
    w.getLsbD 0 = f ∧ w.extractLsb' 4 4 = c ∧ w.extractLsb' 1 3 = 0#3 ∧ w.extractLsb' 8 24 = 0#24 := by
  revert c f
  decide

/-- STATUS is CAUSE shifted to bits 7:4, with FAULT in bit 0 (R22). -/
theorem statusWord_eq (s : State) :
    s.statusWord = (BitVec.zeroExtend 32 s.cause <<< 4) ||| (if s.fault then 1#32 else 0#32) :=
  (statusLayout s.cause s.fault).1

end Sys2Proof.Machine
end

section
/-!
What a command computes from and what it writes: its results depend on OPA, OPB and OPC alone, and only
the two-result commands write RES1 (10_state.md R25, R26; 20_memory.md R50).
-/
namespace Sys2Proof.Machine

/-- Each command is of one of three shapes, with operands of its own: it writes RES0, it divides, or it
is a two-result command and writes both results (10_state.md R26). -/
theorem exec_shape (i : Instr) :
    (∃ r : Word → Word → Int, ∀ s, exec i s = .next (writeRes0 (r s.opa s.opb) s)) ∨
    (∃ n d : Word → Word → Int,
      ∀ s, exec i s = completeDivide (n s.opa s.opb) (d s.opa s.opb) s) ∨
    (i ∈ [.trig, .clarke, .park, .revpark] ∧
      ∃ r0 r1 : Word → Word → Word → Int,
        ∀ s, exec i s =
          .next (writeResults (r0 s.opa s.opb s.opc) (r1 s.opa s.opb s.opc) s)) := by
  cases i with
  | tofix qa => exact .inl ⟨fun a _ => shl (op32 a) qa, fun s => completeFixed_eq _ s⟩
  | fromfix qa => exact .inl ⟨fun a _ => asr (op32 a) qa, fun s => completeFixed_eq _ s⟩
  | qconv qa qr => exact .inl ⟨fun a _ => conv32 (op32 a) qa qr, fun s => completeFixed_eq _ s⟩
  | qadd => exact .inl ⟨fun a b => op32 a + op32 b, fun s => completeFixed_eq _ s⟩
  | qsub => exact .inl ⟨fun a b => op32 a - op32 b, fun s => completeFixed_eq _ s⟩
  | qmul qa => exact .inl ⟨fun a b => asr (op32 a * op32 b) qa, fun s => completeFixed_eq _ s⟩
  | qdiv qa => exact .inr (.inl ⟨fun a _ => shl (op32 a) qa, fun _ b => op32 b, fun _ => rfl⟩)
  | qaddi qa =>
    exact .inl ⟨fun a b => op32 a + wrap 32 (shl (op32 b) qa), fun s => completeFixed_eq _ s⟩
  | qsubi qa =>
    exact .inl ⟨fun a b => op32 a - wrap 32 (shl (op32 b) qa), fun s => completeFixed_eq _ s⟩
  | qmuli => exact .inl ⟨fun a b => op32 a * op32 b, fun s => completeFixed_eq _ s⟩
  | qdivi => exact .inr (.inl ⟨fun a _ => op32 a, fun _ b => op32 b, fun _ => rfl⟩)
  | gadd qa qb qr =>
    exact .inl ⟨fun a b => conv32 (op32 a) qa qr + conv32 (op32 b) qb qr,
      fun s => completeFixed_eq _ s⟩
  | gsub qa qb qr =>
    exact .inl ⟨fun a b => conv32 (op32 a) qa qr - conv32 (op32 b) qb qr,
      fun s => completeFixed_eq _ s⟩
  | gmul qa qb qr =>
    exact .inl ⟨fun a b => convExact (op32 a * op32 b) (qa + qb) qr,
      fun s => completeFixed_eq _ s⟩
  | gdiv qa qb qr =>
    exact .inr (.inl ⟨fun a _ => shl (conv32 (op32 a) qa qr) qr,
      fun _ b => conv32 (op32 b) qb qr, fun _ => rfl⟩)
  | isqrt => exact .inl ⟨fun a _ => isqrt (op32 a), fun _ => rfl⟩
  | fsqrt qa => exact .inl ⟨fun a _ => isqrt (wrap 32 (shl (op32 a) qa)), fun _ => rfl⟩
  | trig =>
    exact .inr (.inr ⟨by simp, fun a _ _ => (trig (op16 a)).1, fun a _ _ => (trig (op16 a)).2,
      fun _ => rfl⟩)
  | clarke =>
    exact .inr (.inr ⟨by simp, fun a _ _ => op16 a,
      fun a b _ => sat16n (clarkeRaw (op16 a) (op16 b)), fun _ => rfl⟩)
  | park =>
    exact .inr (.inr ⟨by simp,
      fun a b c => sat16n (parkRaw (op16 a) (op16 b) (trig (op16 c)).1 (trig (op16 c)).2).1,
      fun a b c => sat16n (parkRaw (op16 a) (op16 b) (trig (op16 c)).1 (trig (op16 c)).2).2,
      fun _ => rfl⟩)
  | revpark =>
    exact .inr (.inr ⟨by simp,
      fun a b c => wrap 16 (revparkRaw (op16 a) (op16 b) (trig (op16 c)).1 (trig (op16 c)).2).1,
      fun a b c => wrap 16 (revparkRaw (op16 a) (op16 b) (trig (op16 c)).1 (trig (op16 c)).2).2,
      fun _ => rfl⟩)

/-- What a dividing command can do: fault, or write RES0 (40_fixed_point.md R89). -/
theorem completeDivide_cases (n d : Int) (s : State) :
    (d = 0 ∧ completeDivide n d s = .next (raiseFault .divZero s)) ∨
    (d ≠ 0 ∧ completeDivide n d s = .next (writeRes0 (Int.tdiv n d) s)) := by
  rw [completeDivide_eq]
  split
  · next h => exact .inl ⟨h, rfl⟩
  · next h => exact .inr ⟨h, rfl⟩

/-! ### A command and the accesses that arrive while it runs -/

theorem raiseFault_arrive (c : FaultCause) (a : BusAccess) (s : State) :
    raiseFault c (arrive a s) = arrive a (raiseFault c s) := by
  rw [raiseFault, raiseFault, arrive_fault]
  split
  · rfl
  · rfl

/-- A command does not see an access that has arrived: it is held after the command as it was before
(20_memory.md R50 points 3 and 4). -/
theorem exec_arrive (i : Instr) (a : BusAccess) (s : State) :
    ∃ t, exec i s = .next t ∧ exec i (arrive a s) = .next (arrive a t) := by
  rcases exec_shape i with ⟨r, hr⟩ | ⟨n, d, hdiv⟩ | ⟨-, r0, r1, hr⟩
  · exact ⟨_, hr s, hr (arrive a s)⟩
  · rw [hdiv, hdiv, arrive_opa, arrive_opb, completeDivide_eq, completeDivide_eq, raiseFault_arrive]
    split
    · exact ⟨_, rfl, rfl⟩
    · exact ⟨_, rfl, rfl⟩
  · exact ⟨_, hr s, hr (arrive a s)⟩

/-- The same of any command word, legal or not. -/
theorem runWord_arrive (w : Word) (a : BusAccess) (s : State) :
    ∃ t, runWord w s = .next t ∧ runWord w (arrive a s) = .next (arrive a t) := by
  unfold runWord
  split
  · exact exec_arrive _ a s
  · exact ⟨_, rfl, by rw [raiseFault_arrive]⟩

/-- With a word in flight, the block runs it (20_memory.md R50). -/
theorem advance_of_inFlight {s : State} {w : Word} (hflight : s.inFlight = some w) :
    advance s = runWord w (retire s) := by
  simp [advance, hflight]

/-! ### What a command word leaves alone -/

/-- Running a command word, legal or not, completes and leaves CMD alone (10_state.md R24). -/
theorem runWord_cmd (w : Word) (s : State) : ∃ t, runWord w s = .next t ∧ t.cmd = s.cmd := by
  rcases runWord_cases w s with ⟨i, -, hrun⟩ | ⟨e, -, hrun⟩
  · rw [hrun]
    rcases exec_cases i s with ⟨r0, r1, hexec⟩ | hexec
    · exact ⟨_, hexec, rfl⟩
    · exact ⟨_, hexec, raiseFault_cmd s _⟩
  · exact ⟨_, hrun, raiseFault_cmd s _⟩

end Sys2Proof.Machine
end

section
/-!
The invariant `BlockInv` operation by operation: STATUS is legal and what is in flight is CMD's word
(10_state.md R22, R24, R31; 60_exceptions.md R171). An update of any other field keeps it by definition.
-/
namespace Sys2Proof.Machine

/-- Only `raiseFault` sets FAULT, and with a cause that is produced. -/
theorem blockInv_raiseFault {s : State} (c : FaultCause) (hinv : BlockInv s) :
    BlockInv (raiseFault c s) := by
  obtain ⟨hstatus, hflight⟩ := hinv
  rcases raiseFault_cases c s with ⟨-, heq⟩ | ⟨-, heq⟩
  · rw [heq]
    exact ⟨hstatus, hflight⟩
  · rw [heq]
    refine ⟨?_, hflight⟩
    cases c
    · exact .inl rfl
    · exact .inr rfl

/-- The host's clear takes FAULT and CAUSE together. -/
theorem blockInv_writeStatus {s : State} (v : Word) (hinv : BlockInv s) :
    BlockInv (writeStatus v s) := by
  rcases writeStatus_cases v s with ⟨-, heq⟩ | ⟨-, heq⟩
  · rw [heq]
    exact ⟨rfl, hinv.2⟩
  · rwa [heq]

/-- A CMD write puts in flight the word it stores. -/
theorem blockInv_startCommand {s : State} (w : Word) (hinv : BlockInv s) :
    BlockInv (startCommand w s) :=
  ⟨hinv.1, .inr rfl⟩

/-- When the command leaves flight, nothing is in flight. -/
theorem blockInv_retire {s : State} (hinv : BlockInv s) : BlockInv (retire s) :=
  ⟨hinv.1, .inl rfl⟩

theorem blockInv_writeOffset {s : State} (off : Nat) (v : Word) (hinv : BlockInv s) :
    BlockInv (writeOffset off v s) := by
  rcases writeOffset_cases off v s with
    ⟨-, heq⟩ | ⟨-, heq⟩ | ⟨-, heq⟩ | ⟨-, heq⟩ | ⟨-, heq⟩ | ⟨-, -, -, -, -, heq⟩ <;> rw [heq]
  · exact blockInv_writeStatus v hinv
  · exact blockInv_startCommand v hinv
  all_goals exact hinv

theorem blockInv_performAccess {s : State} (a : BusAccess) (hinv : BlockInv s) :
    BlockInv (performAccess a s) := by
  rcases performAccess_cases a s with
    ⟨-, heq⟩ | ⟨-, -, heq⟩ | ⟨-, -, ⟨addr, n, -, heq⟩ | ⟨addr, n, v, -, heq⟩⟩ <;> rw [heq]
  · exact hinv
  · exact hinv
  · exact hinv
  · exact blockInv_writeOffset _ v hinv

theorem blockInv_exec {s t : State} {i : Instr} (hinv : BlockInv s) (hexec : exec i s = .next t) :
    BlockInv t := by
  rcases exec_cases i s with ⟨r0, r1, heq⟩ | heq
  · obtain rfl := Host.Outcome.next.inj (heq.symm.trans hexec)
    exact hinv
  · obtain rfl := Host.Outcome.next.inj (heq.symm.trans hexec)
    exact blockInv_raiseFault _ hinv

theorem blockInv_runWord {s t : State} {w : Word} (hinv : BlockInv s)
    (hrun : runWord w s = .next t) : BlockInv t := by
  rcases runWord_cases w s with ⟨i, -, heq⟩ | ⟨e, -, heq⟩
  · exact blockInv_exec hinv (heq.symm.trans hrun)
  · obtain rfl := Host.Outcome.next.inj (heq.symm.trans hrun)
    exact blockInv_raiseFault _ hinv

theorem blockInv_advance {s t : State} (hinv : BlockInv s) (hadv : advance s = .next t) :
    BlockInv t := by
  rcases advance_cases s with ⟨w, -, heq⟩ | ⟨-, -, heq⟩ | ⟨a, rest, -, -, heq⟩
  · exact blockInv_runWord (blockInv_retire hinv) (heq.symm.trans hadv)
  · obtain rfl := Host.Outcome.next.inj (heq.symm.trans hadv)
    exact hinv
  · obtain rfl := Host.Outcome.next.inj (heq.symm.trans hadv)
    exact blockInv_performAccess a hinv

/-- Reset clears STATUS and abandons what is in flight (70_reset_and_hazards.md R190). -/
theorem blockInv_resetBlock (s : State) : BlockInv (resetBlock s) :=
  ⟨rfl, .inl rfl⟩

end Sys2Proof.Machine
end

section
/-! The statements of 10_state.md. -/
namespace Sys2Proof.Proofs
open Sys2Proof Sys2Proof.Machine

/-- Settles O25: `BlockInv` through each case of a step. -/
theorem everyStepKeepsTheInvariant : Obligations.EveryStepKeepsTheInvariant := by
  intro s t hinv hstep
  rcases tick_cases s with
    ⟨-, heq⟩ | ⟨rest, -, heq⟩ | ⟨a, rest, -, heq⟩ | ⟨rest, -, heq⟩
  · exact blockInv_advance hinv (heq.symm.trans hstep)
  · have hrest : BlockInv { s with inputs := rest } := hinv
    exact blockInv_advance hrest (heq.symm.trans hstep)
  · have hheld : BlockInv (arrive a { s with inputs := rest }) := hinv
    exact blockInv_advance hheld (heq.symm.trans hstep)
  · obtain rfl := Host.Outcome.next.inj (heq.symm.trans hstep)
    exact blockInv_resetBlock _

/-- Settles O18: both steps run the word in flight, and running it does not see the access. -/
theorem accessesArrivingInFlightAreOnlyHeld : Obligations.AccessesArrivingInFlightAreOnlyHeld := by
  intro s w a rest hflight
  have hidle : step { s with inputs := .idle :: rest } =
      runWord w (retire { s with inputs := rest }) :=
    advance_of_inFlight (s := { s with inputs := rest }) hflight
  have haccess : step { s with inputs := .access a :: rest } =
      runWord w (arrive a (retire { s with inputs := rest })) :=
    advance_of_inFlight (s := arrive a { s with inputs := rest }) hflight
  rw [hidle, haccess]
  exact runWord_arrive w a _

/-- Settles O26, by what a command can do: write results, or fault. -/
theorem commandsLeaveOperandsAndCmdAlone : Obligations.CommandsLeaveOperandsAndCmdAlone := by
  intro i s
  rcases exec_cases i s with ⟨r0, r1, hexec⟩ | hexec
  · exact ⟨_, hexec, rfl, rfl, rfl, rfl, rfl, rfl, rfl, rfl⟩
  · exact ⟨_, hexec, by simp⟩

/-- Settles O29, by the shape of the command: RES1 is written by the two-result shape alone. -/
theorem oneResultCommandsKeepRes1 : Obligations.OneResultCommandsKeepRes1 := by
  intro i s htrig hclarke hpark hrevpark
  rcases exec_shape i with ⟨r, hexec⟩ | ⟨n, d, hexec⟩ | ⟨htwo, -⟩
  · exact ⟨_, hexec s, rfl⟩
  · rw [hexec]
    rcases completeDivide_cases (n s.opa s.opb) (d s.opa s.opb) s with ⟨-, heq⟩ | ⟨-, heq⟩
    · exact ⟨_, heq, raiseFault_res1 s _⟩
    · exact ⟨_, heq, rfl⟩
  · simp [htrig, hclarke, hpark, hrevpark] at htwo

/-- Settles O9. -/
theorem cmdWriteStoresTheWordAndStartsOneCommand :
    Obligations.CmdWriteStoresTheWordAndStartsOneCommand := fun s w =>
  ⟨performAccess_write_reg .cmd w s, performAccess_read_reg .cmd s, fun v => runWord_cmd v s, rfl⟩

/-- Settles O11. -/
theorem operandRegistersHoldWhatTheHostWrites :
    Obligations.OperandRegistersHoldWhatTheHostWrites := fun s v =>
  ⟨performAccess_write_reg .opa v s, performAccess_write_reg .opb v s,
    performAccess_write_reg .opc v s, readOffset_offset .opa _, readOffset_offset .opb _,
    readOffset_offset .opc _⟩

/-- Settles O12, offset by offset; only STATUS is not read as it is stored. -/
theorem readsReturnTheRegisterAndChangeNothing :
    Obligations.ReadsReturnTheRegisterAndChangeNothing := by
  intro s k hk
  rw [performAccess_read_word (by omega) (by omega)]
  interval_cases k
  · rfl
  · rw [← statusWord_eq]
    rfl
  all_goals rfl

/-- Settles O14, by bit 0 of the word written. -/
theorem statusWriteClearsTheFault : Obligations.StatusWriteClearsTheFault := by
  intro s v
  have hwrite : performAccess (.write (Config.base + 0x04) .word v) s =
      reply .done (writeStatus v s) := performAccess_write_reg .status v s
  rw [hwrite]
  rcases writeStatus_cases v s with ⟨hbit, heq⟩ | ⟨hbit, heq⟩
  · rw [heq, if_pos hbit]
    rfl
  · rw [heq, if_neg (Bool.eq_false_iff.1 hbit)]
    rfl

/-- Settles O15: a read at 0x04 gives STATUS, whose layout is `statusLayout`. -/
theorem statusReadsFaultCauseAndZeros : Obligations.StatusReadsFaultCauseAndZeros := fun s =>
  (statusLayout s.cause s.fault).2

end Sys2Proof.Proofs
end

section
/-!
Accesses by where they fall (20_memory.md R41, R42, R44): outside the window, refused in it, and
four-byte writes that an offset ignores.
-/
namespace Sys2Proof.Machine

theorem inWindow_eq_false_iff (addr : Nat) :
    inWindow addr = false ↔ addr < Config.base ∨ Config.base + 0x40 ≤ addr := by
  simp only [inWindow, decide_eq_false_iff_not]
  omega

/-- An address given as BASE + offset, with the offset in the window (R41). -/
theorem inWindow_of_offset {addr off : Nat} (haddr : addr = Config.base + off) (hlt : off < 0x40) :
    inWindow addr = true := by
  rw [← Bool.not_eq_false, inWindow_eq_false_iff]
  omega

theorem accepted_iff_of_offset {a : BusAccess} {off : Nat} (haddr : a.addr = Config.base + off) :
    accepted a = true ↔ a.size = .word ∧ off % 4 = 0 := by
  simp [accepted, windowOffset, haddr]

/-- Only STATUS, CMD and the operand registers take a write (R44). -/
theorem writeOffset_of_notWritable {off : Nat} (v : Word) (s : State)
    (hoff : off ∉ [0x04, 0x08, 0x10, 0x14, 0x18]) : writeOffset off v s = reply .done s := by
  simp only [List.mem_cons, List.not_mem_nil, or_false, not_or] at hoff
  obtain ⟨hstatus, hcmd, hopa, hopb, hopc⟩ := hoff
  rcases writeOffset_cases off v s with
    ⟨h, -⟩ | ⟨h, -⟩ | ⟨h, -⟩ | ⟨h, -⟩ | ⟨h, -⟩ | ⟨-, -, -, -, -, heq⟩
  · exact absurd h hstatus
  · exact absurd h hcmd
  · exact absurd h hopa
  · exact absurd h hopb
  · exact absurd h hopc
  · exact heq

theorem readOffset_of_regAt_none {off : Nat} (s : State) (hoff : regAt off = none) :
    readOffset off s = 0#32 := by
  rw [readOffset, hoff]

/-- A write completes at once, or, at CMD, gets no reply yet (20_memory.md R54). -/
theorem writeOffset_replies (off : Nat) (v : Word) (s : State) :
    (writeOffset off v s).replies = s.replies ∨
    (writeOffset off v s).replies = .done :: s.replies := by
  rcases writeOffset_cases off v s with
    ⟨-, heq⟩ | ⟨-, heq⟩ | ⟨-, heq⟩ | ⟨-, heq⟩ | ⟨-, heq⟩ | ⟨-, -, -, -, -, heq⟩ <;> rw [heq]
  · exact .inr (by rw [reply_replies, writeStatus_replies])
  · exact .inl rfl
  all_goals exact .inr rfl

end Sys2Proof.Machine
end

section
/-!
The queue of what is held and what is still to arrive, apart from the rest of the block: performing an
access and running a command neither see it nor change it, so that they commute with putting another
queue in its place (20_memory.md R50).
-/
namespace Sys2Proof.Machine

/-- The block with another queue: `h` held and `es` still to arrive. -/
def requeue (h : List BusAccess) (es : List HostEvent) (s : State) : State :=
  { s with held := h, inputs := es }

section
variable (h : List BusAccess) (es : List HostEvent) (s : State)

@[simp] theorem requeue_held : (requeue h es s).held = h := rfl
@[simp] theorem requeue_inputs : (requeue h es s).inputs = es := rfl
@[simp] theorem requeue_fault : (requeue h es s).fault = s.fault := rfl
@[simp] theorem requeue_requeue (h' : List BusAccess) (es' : List HostEvent) :
    requeue h es (requeue h' es' s) = requeue h es s := rfl
theorem requeue_reply (r : Reply) : reply r (requeue h es s) = requeue h es (reply r s) := rfl
theorem requeue_retire : retire (requeue h es s) = requeue h es (retire s) := rfl

/-! ### Performing an access -/

theorem raiseFault_requeue (c : FaultCause) :
    raiseFault c (requeue h es s) = requeue h es (raiseFault c s) := by
  rw [raiseFault, raiseFault, requeue_fault]
  split
  · rfl
  · rfl

theorem writeStatus_requeue (v : Word) :
    writeStatus v (requeue h es s) = requeue h es (writeStatus v s) := by
  rw [writeStatus, writeStatus]
  split
  · rfl
  · rfl

theorem readOffset_requeue (off : Nat) : readOffset off (requeue h es s) = readOffset off s := by
  rw [readOffset, readOffset]
  split
  · next r _ => cases r <;> rfl
  · rfl

theorem writeReg_requeue (r : Reg) (v : Word) :
    writeReg r v (requeue h es s) = requeue h es (writeReg r v s) := by
  cases r with
  | status => rw [writeReg, writeReg, writeStatus_requeue, requeue_reply]
  | id | cmd | opa | opb | opc | res0 | res1 => rfl

theorem writeOffset_requeue (off : Nat) (v : Word) :
    writeOffset off v (requeue h es s) = requeue h es (writeOffset off v s) := by
  rw [writeOffset, writeOffset]
  split
  · exact writeReg_requeue h es s _ v
  · rfl

theorem performAccess_requeue (a : BusAccess) :
    performAccess a (requeue h es s) = requeue h es (performAccess a s) := by
  cases a with
  | read addr n =>
    rw [performAccess, performAccess, readOffset_requeue, apply_ite (requeue h es),
      apply_ite (requeue h es)]
    rfl
  | write addr n v =>
    rw [performAccess, performAccess, writeOffset_requeue, apply_ite (requeue h es),
      apply_ite (requeue h es)]
    rfl

/-- In particular an access performed leaves the queue as it was. -/
@[simp] theorem performAccess_held (a : BusAccess) : (performAccess a s).held = s.held :=
  (congrArg State.held (performAccess_requeue s.held s.inputs s a) :)

@[simp] theorem performAccess_inputs (a : BusAccess) : (performAccess a s).inputs = s.inputs :=
  (congrArg State.inputs (performAccess_requeue s.held s.inputs s a) :)

/-! ### Running a command -/

theorem completeDivide_requeue (n d : Int) :
    ∃ t, completeDivide n d s = .next t ∧
      completeDivide n d (requeue h es s) = .next (requeue h es t) := by
  rw [completeDivide_eq, completeDivide_eq, raiseFault_requeue]
  split
  · exact ⟨_, rfl, rfl⟩
  · exact ⟨_, rfl, rfl⟩

theorem exec_requeue (i : Instr) :
    ∃ t, exec i s = .next t ∧ exec i (requeue h es s) = .next (requeue h es t) := by
  rcases exec_shape i with ⟨r, hr⟩ | ⟨n, d, hdiv⟩ | ⟨-, r0, r1, hr⟩
  · exact ⟨_, hr s, hr (requeue h es s)⟩
  · rw [hdiv, hdiv]
    exact completeDivide_requeue h es s _ _
  · exact ⟨_, hr s, hr (requeue h es s)⟩

theorem runWord_requeue (w : Word) :
    ∃ t, runWord w s = .next t ∧ runWord w (requeue h es s) = .next (requeue h es t) := by
  unfold runWord
  split
  · exact exec_requeue h es s _
  · exact ⟨_, rfl, by rw [raiseFault_requeue]⟩

end

/-- Running a command word puts nothing in flight and leaves the queue alone. -/
theorem runWord_frame (w : Word) (s : State) :
    ∃ t, runWord w s = .next t ∧ t.inFlight = s.inFlight ∧ t.held = s.held ∧
      t.inputs = s.inputs := by
  rcases runWord_cases w s with ⟨i, -, hrun⟩ | ⟨e, -, hrun⟩
  · rw [hrun]
    rcases exec_cases i s with ⟨r0, r1, hexec⟩ | hexec
    · exact ⟨_, hexec, rfl, rfl, rfl⟩
    · exact ⟨_, hexec, by simp⟩
  · exact ⟨_, hrun, by simp⟩

/-! ### The command in flight -/

theorem finishInFlight_of_none {s : State} (hnone : s.inFlight = none) : finishInFlight s = s := by
  simp [finishInFlight, hnone]

theorem finishInFlight_of_runWord {s t : State} {w : Word} (hflight : s.inFlight = some w)
    (hrun : runWord w (retire s) = .next t) : finishInFlight s = t := by
  simp [finishInFlight, hflight, hrun]

theorem finishInFlight_requeue (h : List BusAccess) (es : List HostEvent) (s : State) :
    finishInFlight (requeue h es s) = requeue h es (finishInFlight s) := by
  rcases hflight : s.inFlight with _ | w
  · rw [finishInFlight_of_none hflight, finishInFlight_of_none (s := requeue h es s) hflight]
  · obtain ⟨t, hrun, hrun'⟩ := runWord_requeue h es (retire s) w
    rw [finishInFlight_of_runWord hflight hrun,
      finishInFlight_of_runWord (s := requeue h es s) hflight hrun']

@[simp] theorem finishInFlight_held (s : State) : (finishInFlight s).held = s.held :=
  (congrArg State.held (finishInFlight_requeue s.held s.inputs s) :)

@[simp] theorem finishInFlight_inputs (s : State) : (finishInFlight s).inputs = s.inputs :=
  (congrArg State.inputs (finishInFlight_requeue s.held s.inputs s) :)

@[simp] theorem finishInFlight_inFlight (s : State) : (finishInFlight s).inFlight = none := by
  rcases hflight : s.inFlight with _ | w
  · rw [finishInFlight_of_none hflight, hflight]
  · obtain ⟨t, hrun, ht, -, -⟩ := runWord_frame w (retire s)
    rw [finishInFlight_of_runWord hflight hrun, ht, retire_inFlight]

/-- What advancing leads to: the command in flight has finished, or nothing happened, or the oldest
held access was performed (20_memory.md R50). -/
theorem advance_next_cases (s : State) :
    (s.inFlight ≠ none ∧ advance s = .next (finishInFlight s)) ∨
    (s.inFlight = none ∧ s.held = [] ∧ advance s = .next s) ∨
    (∃ a rest, s.inFlight = none ∧ s.held = a :: rest ∧
      advance s = .next (performAccess a (requeue rest s.inputs s))) := by
  rcases advance_cases s with ⟨w, hflight, hadv⟩ | hquiet | hperform
  · obtain ⟨t, hrun, -⟩ := runWord_frame w (retire s)
    refine .inl ⟨by simp [hflight], ?_⟩
    rw [hadv, hrun, finishInFlight_of_runWord hflight hrun]
  · exact .inr (.inl hquiet)
  · exact .inr (.inr hperform)

/-! ### What arrives -/

theorem step_of_quiet {s : State} (hin : s.inputs = []) : step s = advance s := by
  rw [step, tick, hin]

theorem step_of_idle {s : State} {rest : List HostEvent} (hin : s.inputs = .idle :: rest) :
    step s = advance (requeue s.held rest s) := by
  rw [step, tick, hin]
  rfl

theorem step_of_access {s : State} {a : BusAccess} {rest : List HostEvent}
    (hin : s.inputs = .access a :: rest) : step s = advance (requeue (s.held ++ [a]) rest s) := by
  rw [step, tick, hin]
  rfl

end Sys2Proof.Machine
end

section
/-!
How long a run is: every step of a run that has not ended lowers `workLeft`, so a run ends, and in a
state that has whatever property each of its steps keeps (20_memory.md R56).
-/
namespace Sys2Proof.Machine

/-- A bound on the steps a run still takes: an event arrives in one step, and the access it may bring is
performed in another and its command run in a third. -/
def workLeft (s : State) : Nat :=
  3 * s.inputs.length + 2 * s.held.length + s.inFlight.toList.length

/-- Advancing works something off, or there is nothing to do. -/
theorem advance_workLeft (s : State) :
    ∃ t, advance s = .next t ∧
      (workLeft t < workLeft s ∨ t = s ∧ s.held = [] ∧ s.inFlight = none) := by
  rcases advance_next_cases s with ⟨hflight, hadv⟩ | ⟨hflight, hheld, hadv⟩ |
    ⟨a, rest, hflight, hheld, hadv⟩
  · obtain ⟨w, hw⟩ := Option.ne_none_iff_exists'.1 hflight
    exact ⟨_, hadv, .inl (by simp [workLeft, hw])⟩
  · exact ⟨_, hadv, .inr ⟨rfl, hheld, hflight⟩⟩
  · refine ⟨_, hadv, .inl ?_⟩
    simp only [workLeft, performAccess_held, performAccess_inputs, requeue_held, requeue_inputs,
      hheld, hflight, List.length_cons]
    have hone := Option.length_toList_le (o := (performAccess a (requeue rest s.inputs s)).inFlight)
    omega

/-- An event that arrives costs less than the work it takes away. -/
theorem advance_workLeft_lt {s s' : State} (hlt : workLeft s' < workLeft s) :
    ∃ t, advance s' = .next t ∧ workLeft t < workLeft s := by
  obtain ⟨t, hadv, hwork | ⟨rfl, -, -⟩⟩ := advance_workLeft s'
  · exact ⟨t, hadv, hwork.trans hlt⟩
  · exact ⟨t, hadv, hlt⟩

theorem step_workLeft_lt {s : State} (hrun : ¬ RunEnded s) :
    ∃ t, step s = .next t ∧ workLeft t < workLeft s := by
  rcases tick_cases s with
    ⟨hin, htick⟩ | ⟨rest, hin, htick⟩ | ⟨a, rest, hin, htick⟩ | ⟨rest, hin, htick⟩ <;>
    rw [step, htick]
  · obtain ⟨t, hadv, hwork | ⟨-, hheld, hflight⟩⟩ := advance_workLeft s
    · exact ⟨t, hadv, hwork⟩
    · exact absurd ⟨hin, hheld, hflight⟩ hrun
  · apply advance_workLeft_lt
    simp only [workLeft, hin, List.length_cons]
    omega
  · apply advance_workLeft_lt
    simp only [workLeft, arrive_inputs, arrive_held, arrive_inFlight, hin, List.length_cons,
      List.length_append, List.length_nil]
    omega
  · refine ⟨_, rfl, ?_⟩
    simp only [workLeft, resetBlock_inputs, resetBlock_held, resetBlock_inFlight, State.reset, hin,
      List.length_cons, List.length_nil, Option.toList]
    omega

theorem runsTo_succ {k : Nat} {s s' t : State} (hstep : step s = .next s') (hrun : RunsTo k s' t) :
    RunsTo (k + 1) s t := by
  have hcore : Sys2Proof.core.step s = .next s' := hstep
  simp only [RunsTo, Host.Core.run, hcore]
  exact hrun

/-- Every run ends, and a property that each step keeps holds at its end. -/
theorem run_ends_with {P : State → Prop} (hkeep : ∀ s t, P s → step s = .next t → P t) (s : State)
    (hs : P s) : ∃ k t, k ≤ workLeft s ∧ RunsTo k s t ∧ RunEnded t ∧ P t := by
  induction hn : workLeft s using Nat.strong_induction_on generalizing s with
  | _ n ih =>
    subst hn
    by_cases hend : RunEnded s
    · exact ⟨0, s, Nat.zero_le _, rfl, hend, hs⟩
    · obtain ⟨s', hstep, hwork⟩ := step_workLeft_lt hend
      obtain ⟨k, t, hk, hrun, hdone, ht⟩ := ih _ hwork s' (hkeep s s' hs hstep) rfl
      exact ⟨k + 1, t, by omega, runsTo_succ hstep hrun, hdone, ht⟩

end Sys2Proof.Machine
end

section
/-!
What a run amounts to: `sequentialEffect`, the accesses held and those to come performed whole in
arrival order. Every step without a reset keeps it, and at the end of a run it is the state itself
(20_memory.md R46, R50).
-/
namespace Sys2Proof.Machine

/-- The command in flight completed, then the accesses held and those still to arrive performed whole,
one after another. -/
def sequentialEffect (s : State) : State :=
  (s.held ++ accessesOf s.inputs).foldl (fun u a => performWhole a u)
    (requeue [] [] (finishInFlight s))

theorem performWhole_requeue (h : List BusAccess) (es : List HostEvent) (a : BusAccess) (s : State) :
    performWhole a (requeue h es s) = requeue h es (performWhole a s) := by
  rw [performWhole, performWhole, performAccess_requeue, finishInFlight_requeue]

theorem sequentialEffect_of_ended {s : State} (hend : RunEnded s) : sequentialEffect s = s := by
  obtain ⟨hin, hheld, hflight⟩ := hend
  rw [sequentialEffect, finishInFlight_of_none hflight, hin, hheld]
  exact (congrArg₂ (requeue · · s) hheld hin).symm

/-- It depends on the queue by the order of the accesses alone. -/
theorem sequentialEffect_requeue {h : List BusAccess} {es : List HostEvent} {s : State}
    (hsame : h ++ accessesOf es = s.held ++ accessesOf s.inputs) :
    sequentialEffect (requeue h es s) = sequentialEffect s := by
  rw [sequentialEffect, sequentialEffect, finishInFlight_requeue, requeue_requeue, requeue_held,
    requeue_inputs, hsame]

theorem sequentialEffect_finishInFlight (s : State) :
    sequentialEffect (finishInFlight s) = sequentialEffect s := by
  rw [sequentialEffect, sequentialEffect, finishInFlight_held, finishInFlight_inputs,
    finishInFlight_of_none (finishInFlight_inFlight s)]

/-- Performing the oldest held access is the first step of the fold. -/
theorem sequentialEffect_performAccess {s : State} {a : BusAccess} {rest : List BusAccess}
    (hflight : s.inFlight = none) (hheld : s.held = a :: rest) :
    sequentialEffect (performAccess a (requeue rest s.inputs s)) = sequentialEffect s := by
  have hfirst : requeue [] [] (finishInFlight (performAccess a (requeue rest s.inputs s))) =
      performWhole a (requeue [] [] s) := by
    rw [performAccess_requeue, finishInFlight_requeue, requeue_requeue, performWhole_requeue,
      performWhole]
  rw [sequentialEffect, sequentialEffect, hfirst, performAccess_held, performAccess_inputs,
    requeue_held, requeue_inputs, finishInFlight_of_none hflight, hheld, List.cons_append,
    List.foldl_cons]

theorem advance_keeps_sequentialEffect {s t : State} (hadv : advance s = .next t) :
    t.inputs = s.inputs ∧ sequentialEffect t = sequentialEffect s := by
  rcases advance_next_cases s with ⟨-, heq⟩ | ⟨-, -, heq⟩ | ⟨a, rest, hflight, hheld, heq⟩ <;>
    obtain rfl := Host.Outcome.next.inj (heq.symm.trans hadv)
  · exact ⟨finishInFlight_inputs s, sequentialEffect_finishInFlight s⟩
  · exact ⟨rfl, rfl⟩
  · exact ⟨performAccess_inputs _ a, sequentialEffect_performAccess hflight hheld⟩

/-- Without a reset, what arrives only moves from the events to come to the accesses held; then the
block advances. -/
theorem step_without_reset {s : State} (hreset : HostEvent.reset ∉ s.inputs) :
    ∃ h es, step s = advance (requeue h es s) ∧ HostEvent.reset ∉ es ∧
      h ++ accessesOf es = s.held ++ accessesOf s.inputs := by
  rcases tick_cases s with
    ⟨hin, htick⟩ | ⟨rest, hin, htick⟩ | ⟨a, rest, hin, htick⟩ | ⟨rest, hin, htick⟩
  · exact ⟨s.held, s.inputs, htick, hreset, rfl⟩
  · exact ⟨s.held, rest, htick, fun hmem => hreset (hin ▸ List.mem_cons_of_mem _ hmem),
      by rw [hin, accessesOf]⟩
  · exact ⟨s.held ++ [a], rest, htick, fun hmem => hreset (hin ▸ List.mem_cons_of_mem _ hmem),
      by simp [hin, accessesOf]⟩
  · simp [hin] at hreset

theorem step_keeps_sequentialEffect {s t : State} (hreset : HostEvent.reset ∉ s.inputs)
    (hstep : step s = .next t) :
    HostEvent.reset ∉ t.inputs ∧ sequentialEffect t = sequentialEffect s := by
  obtain ⟨h, es, heq, hes, hsame⟩ := step_without_reset hreset
  obtain ⟨hin, heffect⟩ := advance_keeps_sequentialEffect (heq.symm.trans hstep)
  rw [hin, heffect, sequentialEffect_requeue hsame]
  exact ⟨hes, rfl⟩

end Sys2Proof.Machine
end

section
/-! A Q field of a decoded command is a 5-bit field of its word (30_encoding.md R61, R62). -/
namespace Sys2Proof

theorem field_lt (w : Word) (lo len : Nat) : field w lo len < 2 ^ len :=
  (w.extractLsb' lo len).isLt

theorem wellFormed_of_instrOfFields {op qa qb qr : Nat} {i : Instr} (ha : qa < 32) (hb : qb < 32)
    (hr : qr < 32) (h : instrOfFields op qa qb qr = some i) : i.WellFormed := by
  unfold instrOfFields at h
  split at h <;> cases h <;> simp [Instr.WellFormed, Instr.wellFormed, ha, hb, hr]

theorem wellFormed_of_decodeWord {w : Word} {i : Instr} (h : decodeWord w = .ok i) :
    i.WellFormed := by
  unfold decodeWord at h
  split at h
  · split at h
    · next j hj =>
      obtain rfl := Except.ok.inj h
      exact wellFormed_of_instrOfFields (field_lt w 8 5) (field_lt w 16 5) (field_lt w 24 5) hj
    · cases h
  · cases h

end Sys2Proof
end

section
/-! The statements of 20_memory.md. -/
namespace Sys2Proof.Proofs
open Sys2Proof Sys2Proof.Machine

/-- Settles O19: the run ends, its steps keep `sequentialEffect`, and at its end that is the state. -/
theorem runsAreSequentialInArrivalOrder : Obligations.RunsAreSequentialInArrivalOrder := by
  intro s hreset
  obtain ⟨k, t, -, hrun, hend, -, heffect⟩ :=
    run_ends_with (P := fun u => HostEvent.reset ∉ u.inputs ∧ sequentialEffect u = sequentialEffect s)
      (fun u v ⟨hu, heq⟩ hstep =>
        have ⟨hv, hkeep⟩ := step_keeps_sequentialEffect hu hstep
        ⟨hv, hkeep.trans heq⟩)
      s ⟨hreset, rfl⟩
  exact ⟨k, t, hrun, hend, (sequentialEffect_of_ended hend).symm.trans heffect⟩

/-- Settles O20: `workLeft` bounds the run, and the command in flight counts for one step. -/
theorem everyRunEnds : Obligations.EveryRunEnds := by
  intro s
  obtain ⟨k, t, hk, hrun, hend, -⟩ :=
    run_ends_with (P := fun _ => True) (fun _ _ _ _ => trivial) s trivial
  refine ⟨k, t, hk.trans ?_, hrun, hend⟩
  have hone := Option.length_toList_le (o := s.inFlight)
  unfold workLeft
  omega

/-- Settles O8: in each arrival case the block runs the word in flight, which is the command. -/
theorem stepRunsTheDecodedCommand : Obligations.StepRunsTheDecodedCommand := by
  intro s w i hflight hdecode
  have hadvance (s' : State) (hflight' : s'.inFlight = some w) : advance s' = exec i (retire s') := by
    rw [advance_of_inFlight hflight', runWord, hdecode]
  refine ⟨wellFormed_of_decodeWord hdecode, fun hin => ?_, fun rest hin => ?_, fun a rest hin => ?_⟩
  · exact (step_of_quiet hin).trans (hadvance s hflight)
  · exact (step_of_idle hin).trans (hadvance (requeue s.held rest s) hflight)
  · exact (step_of_access hin).trans (hadvance (requeue (s.held ++ [a]) rest s) hflight)

/-- Settles O13: none of these offsets takes a write, and no register stands at the reserved ones. -/
theorem readOnlyAndReservedOffsetsIgnoreWrites :
    Obligations.ReadOnlyAndReservedOffsetsIgnoreWrites := by
  intro s v off
  have hignored : ∀ o ∈ [0x00, 0x20, 0x24, 0x0C, 0x1C, 0x28, 0x2C, 0x30, 0x34, 0x38, 0x3C],
      o < 0x40 ∧ o % 4 = 0 ∧ o ∉ [0x04, 0x08, 0x10, 0x14, 0x18] := by decide
  have hreserved : ∀ o ∈ [0x0C, 0x1C, 0x28, 0x2C, 0x30, 0x34, 0x38, 0x3C],
      o < 0x40 ∧ o % 4 = 0 ∧ regAt o = none := by decide
  constructor
  · intro hmem
    obtain ⟨hlt, halign, hoff⟩ := hignored off hmem
    rw [performAccess_write_word hlt halign, writeOffset_of_notWritable v s hoff]
    rfl
  · intro hmem
    obtain ⟨hlt, halign, hoff⟩ := hreserved off hmem
    rw [performAccess_read_word hlt halign, readOffset_of_regAt_none s hoff]
    rfl

/-- Settles O16, by what performing an access in the window can do. -/
theorem otherAccessesInTheWindowGetABusError : Obligations.OtherAccessesInTheWindowGetABusError := by
  intro s a off haddr hlt
  have hwin := inWindow_of_offset haddr hlt
  have hacc := accepted_iff_of_offset haddr
  rcases performAccess_cases a s with
    ⟨hout, -⟩ | ⟨-, hrefused, heq⟩ | ⟨-, haccepted, heq⟩
  · simp [hwin] at hout
  · refine ⟨fun _ => heq, fun hword => ?_⟩
    simp [hacc.2 hword] at hrefused
  · obtain ⟨hsize, halign⟩ := hacc.1 haccepted
    refine ⟨fun hbad => absurd hsize (hbad.resolve_right (absurd halign)), fun _ => ?_⟩
    rcases heq with ⟨addr, n, -, hread⟩ | ⟨addr, n, v, -, hwrite⟩
    · rw [hread]
      exact .inr ⟨_, Reply.noConfusion, rfl⟩
    · rw [hwrite]
      exact (writeOffset_replies _ v s).imp_right fun hdone => ⟨.done, Reply.noConfusion, hdone⟩

/-- Settles O17: of what performing an access can do, only "nothing" is left outside the window. -/
theorem accessesOutsideTheWindowAreNotAnswered :
    Obligations.AccessesOutsideTheWindowAreNotAnswered := by
  intro s a hout
  have hwin := (inWindow_eq_false_iff a.addr).2 hout
  rcases performAccess_cases a s with ⟨-, heq⟩ | ⟨hin, -⟩ | ⟨hin, -⟩
  · exact heq
  · exact absurd (hwin.symm.trans hin) Bool.false_ne_true
  · exact absurd (hwin.symm.trans hin) Bool.false_ne_true

end Sys2Proof.Proofs
end

section
/-!
The opcode map as an equivalence, and with it the decoder: which command a word stands for, and which
words stand for one (30_encoding.md R61 to R66).
-/
namespace Sys2Proof

/-! ### The opcode map -/

/-- The opcodes of the map, as the opcode table lists them (R64, R65). -/
def legalOpcodes : List Nat := opcodeTable.map fun r => r.bits.toNat

theorem Instr.opcode_mem (i : Instr) : i.opcode ∈ legalOpcodes := by
  cases i <;> simp [Instr.opcode, legalOpcodes, opcodeTable, opcodeRow]

theorem legalOpcodes_lt : ∀ op ∈ legalOpcodes, op < 256 := by decide

theorem legalOpcodes_nodup : legalOpcodes.Nodup := by decide

/-- The Q fields the command uses hold these numbers; a field it does not use may hold any
(30_encoding.md R63, R66). -/
def Instr.ReadsFields (i : Instr) (qa qb qr : Nat) : Prop :=
  (∀ q, i.qa? = some q → qa = q) ∧ (∀ q, i.qb? = some q → qb = q) ∧ (∀ q, i.qr? = some q → qr = q)

/-- What the encoder and the assembler write for the Q fields is what the command reads (R69). -/
theorem Instr.readsFields_getD (i : Instr) :
    i.ReadsFields (i.qa?.getD 0) (i.qb?.getD 0) (i.qr?.getD 0) := by
  refine ⟨?_, ?_, ?_⟩ <;> rintro q h <;> rw [h, Option.getD_some]

/-- Well-formedness, field by field (R62). -/
theorem Instr.wellFormed_iff (i : Instr) :
    i.WellFormed ↔ (∀ q, i.qa? = some q → q < 32) ∧ (∀ q, i.qb? = some q → q < 32) ∧
      (∀ q, i.qr? = some q → q < 32) := by
  cases i <;> simp [Instr.WellFormed, Instr.wellFormed, Instr.qa?, Instr.qb?, Instr.qr?]

/-- The opcode map gives the command with this opcode that reads these fields, and no other (R64). -/
theorem instrOfFields_eq_some_iff {op qa qb qr : Nat} {i : Instr} :
    instrOfFields op qa qb qr = some i ↔ i.opcode = op ∧ i.ReadsFields qa qb qr := by
  constructor
  · intro h
    unfold instrOfFields at h
    split at h <;> cases h <;>
      simp [Instr.opcode, Instr.ReadsFields, Instr.qa?, Instr.qb?, Instr.qr?]
  · rintro ⟨rfl, hread⟩
    cases i <;> simp [Instr.ReadsFields, Instr.qa?, Instr.qb?, Instr.qr?] at hread <;>
      simp [instrOfFields, Instr.opcode, hread]

theorem instrOfFields_isSome_iff {op qa qb qr : Nat} :
    (∃ i, instrOfFields op qa qb qr = some i) ↔ op ∈ legalOpcodes := by
  constructor
  · rintro ⟨i, hi⟩
    obtain ⟨rfl, -⟩ := instrOfFields_eq_some_iff.1 hi
    exact i.opcode_mem
  · intro h
    have hall : ∀ op ∈ legalOpcodes, (instrOfFields op qa qb qr).isSome := by
      simp [legalOpcodes, opcodeTable, opcodeRow, instrOfFields]
    exact Option.isSome_iff_exists.1 (hall op h)

/-! ### The decoder -/

theorem decodeWord_eq_ok_iff {w : Word} {i : Instr} :
    decodeWord w = .ok i ↔ reservedClear w = true ∧ i.opcode = opField w ∧
      i.ReadsFields (qaField w) (qbField w) (qrField w) := by
  rw [← instrOfFields_eq_some_iff]
  unfold decodeWord
  split
  · next hres =>
    split
    · next j hj => simp [hres, hj]
    · next hnone => simp [hnone]
  · next hres => simp [hres]

/-- A word decodes when its opcode is of the map and its reserved bits are 0 (R65). -/
theorem decodeWord_isOk_iff {w : Word} :
    (∃ i, decodeWord w = .ok i) ↔ opField w ∈ legalOpcodes ∧ reservedClear w = true := by
  rw [← instrOfFields_isSome_iff (qa := qaField w) (qb := qbField w) (qr := qrField w)]
  simp only [decodeWord_eq_ok_iff, instrOfFields_eq_some_iff, exists_and_left, and_comm]

theorem decodeWord_isError_iff {w : Word} :
    (∃ e, decodeWord w = .error e) ↔ ¬ ∃ i, decodeWord w = .ok i := by
  cases decodeWord w <;> simp

/-- A packed word decodes to the command with its opcode that reads its fields, whatever stands in the
fields that command does not use (R66, R69). -/
theorem decodeWord_packWord {i : Instr} {qa qb qr : Nat} (ha : qa < 32) (hb : qb < 32) (hr : qr < 32)
    (hread : i.ReadsFields qa qb qr) : decodeWord (packWord i.opcode qa qb qr) = .ok i := by
  obtain ⟨hop, hqa, hqb, hqr, hres⟩ := packWord_fields (legalOpcodes_lt _ i.opcode_mem) ha hb hr
  rw [decodeWord_eq_ok_iff, hop, hqa, hqb, hqr]
  exact ⟨hres, rfl, hread⟩

/-- A field that is in range when it is used is in range as the encoder writes it. -/
theorem getD_zero_lt {o : Option Nat} (h : ∀ q, o = some q → q < 32) : o.getD 0 < 32 := by
  cases o with
  | none => decide
  | some q => exact h q rfl

theorem decodeWord_encode {i : Instr} (h : i.WellFormed) : decodeWord (encode i) = .ok i := by
  obtain ⟨ha, hb, hr⟩ := i.wellFormed_iff.1 h
  exact decodeWord_packWord (getD_zero_lt ha) (getD_zero_lt hb) (getD_zero_lt hr) i.readsFields_getD

end Sys2Proof
end

section
/-!
Legal words three ways: by the rule (`LegalWord`), by the decoder, and by the rows of the opcode table
(30_encoding.md R65, R67).
-/
namespace Sys2Proof
open Sys2Proof.Machine

theorem field_eq_zero_iff {w : Word} {lo len : Nat} :
    field w lo len = 0 ↔ w.extractLsb' lo len = 0#len := by
  rw [field, BitVec.toNat_eq, BitVec.toNat_ofNat, Nat.zero_mod]

theorem reservedClear_iff {w : Word} : reservedClear w = true ↔
    w.extractLsb' 13 3 = 0#3 ∧ w.extractLsb' 21 3 = 0#3 ∧ w.extractLsb' 29 3 = 0#3 := by
  simp only [reservedClear, decide_eq_true_eq, field_eq_zero_iff]

theorem legalWord_iff {w : Word} :
    LegalWord w ↔ opField w ∈ legalOpcodes ∧ reservedClear w = true := by
  rw [reservedClear_iff]
  rfl

theorem legalWord_iff_decodes {w : Word} : LegalWord w ↔ ∃ i, decodeWord w = .ok i :=
  legalWord_iff.trans decodeWord_isOk_iff.symm

/-- The opcodes that are not of the map (R67). -/
theorem not_mem_legalOpcodes_iff {op : Nat} : op ∉ legalOpcodes ↔
    op = 0x00 ∨ (0x04 ≤ op ∧ op ≤ 0x07) ∨ (0x14 ≤ op ∧ op ≤ 0x17) ∨ (0x1A ≤ op ∧ op ≤ 0x1F) ∨
      0x24 ≤ op := by
  simp [legalOpcodes, opcodeTable, opcodeRow]
  omega

/-! ### The rows of the opcode table -/

/-- A word is its opcode, its Q fields and its reserved bits (R61). -/
theorem word_eq_of_fields {v w : Word} (hop : opField v = opField w) (ha : qaField v = qaField w)
    (hb : qbField v = qbField w) (hr : qrField v = qrField w)
    (h13 : field v 13 3 = field w 13 3) (h21 : field v 21 3 = field w 21 3)
    (h29 : field v 29 3 = field w 29 3) : v = w := by
  apply BitVec.eq_of_toNat_eq
  simp only [opField, qaField, qbField, qrField, field_eq] at *
  have hv := v.isLt
  have hw := w.isLt
  omega

/-- Under a mask whose bits in a field are all 1, the field is kept. -/
theorem field_and_of_ones {w m : Word} {lo len : Nat}
    (hm : m.extractLsb' lo len = BitVec.allOnes len) : field (w &&& m) lo len = field w lo len := by
  rw [field, BitVec.extractLsb'_and, hm, BitVec.and_allOnes, field]

/-- Under a mask whose bits in a field are all 0, the field is cleared. -/
theorem field_and_of_zeros {w m : Word} {lo len : Nat}
    (hm : m.extractLsb' lo len = 0#len) : field (w &&& m) lo len = 0 := by
  rw [field_eq_zero_iff, BitVec.extractLsb'_and, hm, BitVec.and_zero]

/-- A word with the opcode `op` and nothing else. -/
theorem opcodeWord_fields {op : Nat} (h : op < 256) :
    opField (BitVec.ofNat 32 op) = op ∧
      ∀ lo len, 8 ≤ lo → field (BitVec.ofNat 32 op) lo len = 0 := by
  have hnat : (BitVec.ofNat 32 op).toNat = op := Nat.mod_eq_of_lt (by omega)
  refine ⟨?_, fun lo len hlo => ?_⟩
  · rw [opField, field_eq, hnat]
    omega
  · have hlt : op < 2 ^ lo := h.trans_le (Nat.pow_le_pow_right (by decide) hlo : 2 ^ 8 ≤ 2 ^ lo)
    rw [field_eq, hnat, Nat.div_eq_of_lt hlt, Nat.zero_mod]

/-- The mask keeps the opcode and the reserved bits: what a row's test says of a word (R65). -/
theorem and_mask_eq_iff {w : Word} {op : Nat} (h : op < 256) :
    w &&& 0xE0E0E0FF#32 = BitVec.ofNat 32 op ↔ opField w = op ∧ reservedClear w = true := by
  obtain ⟨hop, hzero⟩ := opcodeWord_fields h
  have keepOp : opField (w &&& 0xE0E0E0FF#32) = opField w := field_and_of_ones (by decide)
  have keep13 : field (w &&& 0xE0E0E0FF#32) 13 3 = field w 13 3 := field_and_of_ones (by decide)
  have keep21 : field (w &&& 0xE0E0E0FF#32) 21 3 = field w 21 3 := field_and_of_ones (by decide)
  have keep29 : field (w &&& 0xE0E0E0FF#32) 29 3 = field w 29 3 := field_and_of_ones (by decide)
  rw [reservedClear, decide_eq_true_eq, ← keepOp, ← keep13, ← keep21, ← keep29]
  constructor
  · intro heq
    rw [heq]
    exact ⟨hop, hzero _ _ (by decide), hzero _ _ (by decide), hzero _ _ (by decide)⟩
  · rintro ⟨hopw, h13, h21, h29⟩
    have cleared {lo len : Nat} (hlo : 8 ≤ lo) (hm : (0xE0E0E0FF#32).extractLsb' lo len = 0#len) :
        field (w &&& 0xE0E0E0FF#32) lo len = field (BitVec.ofNat 32 op) lo len :=
      (field_and_of_zeros hm).trans (hzero lo len hlo).symm
    exact word_eq_of_fields (hopw.trans hop.symm) (cleared (by decide) (by decide))
      (cleared (by decide) (by decide)) (cleared (by decide) (by decide))
      (h13.trans (hzero _ _ (by decide)).symm) (h21.trans (hzero _ _ (by decide)).symm)
      (h29.trans (hzero _ _ (by decide)).symm)

theorem opcodeTable_mask : ∀ r ∈ opcodeTable, r.mask = 0xE0E0E0FF#32 := by decide

/-- A row of the table accepts the words with its opcode and reserved bits 0 (R65). -/
theorem row_matches_iff {r : OpcodeRow} (hr : r ∈ opcodeTable) (w : Word) :
    w &&& r.mask = r.bits ↔ opField w = r.bits.toNat ∧ reservedClear w = true := by
  rw [← and_mask_eq_iff (legalOpcodes_lt _ (List.mem_map_of_mem hr)), opcodeTable_mask r hr, BitVec.ofNat_toNat,
    BitVec.setWidth_eq]

/-- The rows have different opcodes, so a legal word matches one row only (R65). -/
theorem existsUnique_row {w : Word} (h : LegalWord w) :
    ∃! r, r ∈ opcodeTable ∧ w &&& r.mask = r.bits := by
  obtain ⟨hop, hres⟩ := legalWord_iff.1 h
  obtain ⟨r, hr, hbits⟩ := List.mem_map.1 hop
  refine ⟨r, ⟨hr, (row_matches_iff hr w).2 ⟨hbits.symm, hres⟩⟩, ?_⟩
  rintro r' ⟨hr', hmatch⟩
  obtain ⟨hbits', -⟩ := (row_matches_iff hr' w).1 hmatch
  exact List.inj_on_of_nodup_map legalOpcodes_nodup hr' hr (hbits'.symm.trans hbits.symm)

/-- A word that some row accepts is legal (R65). -/
theorem legalWord_of_row {r : OpcodeRow} {w : Word} (hr : r ∈ opcodeTable)
    (hmatch : w &&& r.mask = r.bits) : LegalWord w := by
  obtain ⟨hbits, hres⟩ := (row_matches_iff hr w).1 hmatch
  exact legalWord_iff.2 ⟨List.mem_map.2 ⟨r, hr, hbits.symm⟩, hres⟩

/-! ### Running a word -/

/-- Fault entry is the fault of the statements (60_exceptions.md R172). -/
theorem raiseFault_eq_faulted (c : FaultCause) (s : State) :
    raiseFault c s = Claims.faulted (causeCode c) s := by
  rcases raiseFault_cases c s with ⟨hfault, heq⟩ | ⟨hfault, heq⟩
  · rw [heq, Claims.faulted, if_pos hfault, ← hfault]
  · simp [heq, Claims.faulted, hfault]

theorem runWord_of_error {w : Word} {e : DecodeError} (h : decodeWord w = .error e) (s : State) :
    runWord w s = .next (Claims.faulted 1#4 s) := by
  rw [runWord, h]
  exact congrArg _ (raiseFault_eq_faulted .illegalCmd s)

theorem runWord_of_ok {w : Word} {i : Instr} (h : decodeWord w = .ok i) (s : State) :
    runWord w s = exec i s := by
  rw [runWord, h]

theorem advance_next (s : State) : ∃ t, advance s = .next t :=
  (advance_workLeft s).imp fun _ ⟨hadv, _⟩ => hadv

/-! ### The assembler -/

/-- A line is accepted when it names a well-formed command and gives fields of that command only; its
word is the command's (30_encoding.md R69). -/
theorem assemble_eq_ok_iff {l : AsmLine} {w : Word} :
    assemble l = .ok w ↔
      ∃ i, asmInstr l = some i ∧ asmFieldsUsed l i = true ∧ i.WellFormed ∧ encode i = w := by
  unfold assemble
  cases asmInstr l with
  | none => simp
  | some i => cases hused : asmFieldsUsed l i <;> cases hwf : i.wellFormed <;> simp [hused, hwf, Instr.WellFormed]

/-- The command a line names has the opcode of the mnemonic's row and reads the fields given, 0 where
one is omitted (R69). -/
theorem asmInstr_spec {l : AsmLine} {i : Instr} (h : asmInstr l = some i) :
    (∃ r ∈ opcodeTable, r.mnemonic = l.mnemonic ∧ r.bits.toNat = i.opcode) ∧
      i.ReadsFields (l.qa.getD 0) (l.qb.getD 0) (l.qr.getD 0) := by
  obtain ⟨r, hfind, hinstr⟩ := Option.bind_eq_some_iff.1 h
  obtain ⟨hop, hread⟩ := instrOfFields_eq_some_iff.1 hinstr
  exact ⟨⟨r, List.mem_of_find?_eq_some hfind, by simpa using List.find?_some hfind, hop.symm⟩, hread⟩

theorem asmFieldsUsed_iff {l : AsmLine} {i : Instr} :
    asmFieldsUsed l i = true ↔ (l.qa.isSome → i.qa?.isSome) ∧ (l.qb.isSome → i.qb?.isSome) ∧
      (l.qr.isSome → i.qr?.isSome) := by
  have given (o o' : Option Nat) : (o.isNone || o'.isSome) = true ↔ (o.isSome → o'.isSome) := by
    cases o <;> simp
  simp only [asmFieldsUsed, Bool.and_eq_true, given, and_assoc]

/-- A field that is given only when used, and read when used, is 0 on both sides when not used. -/
theorem getD_eq_of_used {given used : Option Nat} (hgiven : given.isSome → used.isSome)
    (hread : ∀ q, used = some q → given.getD 0 = q) : used.getD 0 = given.getD 0 := by
  cases used with
  | none =>
    cases given with
    | none => rfl
    | some q => cases hgiven rfl
  | some q => exact (hread q rfl).symm

end Sys2Proof
end

section
/-! The statements of 30_encoding.md. -/
namespace Sys2Proof.Proofs
open Sys2Proof Sys2Proof.Machine

/-- Settles O1: the encoder packs what the command reads, and the bytes carry the word. -/
theorem decodeInvertsEncode : Obligations.DecodeInvertsEncode := fun i h =>
  ⟨decodeWord_encode h, (decodeBytes_bytesOfWord (encode i)).trans (decodeWord_encode h)⟩

/-- Settles O2, by `legalWord_iff_decodes` and by what a row's mask keeps. -/
theorem legalWordsAreThoseOfTheOpcodeTable : Obligations.LegalWordsAreThoseOfTheOpcodeTable := by
  refine ⟨opcodeTable_mask, fun w => ⟨legalWord_iff_decodes, existsUnique_row, ?_, ?_⟩⟩
  · intro hillegal r hr hmatch
    exact hillegal (legalWord_of_row hr hmatch)
  · intro hillegal s
    obtain ⟨e, he⟩ := decodeWord_isError_iff.2 (legalWord_iff_decodes.not.1 hillegal)
    exact runWord_of_error he s

/-- Settles O3: the decoder asks only that the fields the command reads hold its values. -/
theorem unusedQFieldsAreIgnored : Obligations.UnusedQFieldsAreIgnored := by
  constructor
  · intro i qa qb qr _ ha hb hr hqa hqb hqr
    exact decodeWord_packWord ha hb hr ⟨hqa, hqb, hqr⟩
  · intro w hset
    rw [decodeWord_isError_iff, decodeWord_isOk_iff, reservedClear_iff]
    rintro ⟨-, h13, h21, h29⟩
    rcases hset with hset | hset | hset
    · exact hset h13
    · exact hset h21
    · exact hset h29

/-- Settles O4: the refused words are those not legal, their opcodes counted out. -/
theorem reservedWordsAreRefusedAndAllOthersExecute :
    Obligations.ReservedWordsAreRefusedAndAllOthersExecute := by
  intro w
  refine ⟨?_, fun i hok s => ?_, fun e herr s => runWord_of_error herr s⟩
  · rw [decodeWord_isError_iff, decodeWord_isOk_iff, not_and_or, not_mem_legalOpcodes_iff,
      reservedClear_iff, not_and_or, not_and_or]
    simp only [or_assoc, ne_eq, opField, field]
  · obtain ⟨t, hrun, -⟩ := runWord_frame w s
    exact ⟨t, (runWord_of_ok hok s).symm.trans hrun, hrun⟩

/-- Settles O5. -/
theorem decodedCommandsReadTheirFields : Obligations.DecodedCommandsReadTheirFields := by
  intro w i h
  obtain ⟨-, hop, hqa, hqb, hqr⟩ := decodeWord_eq_ok_iff.1 h
  exact ⟨wellFormed_of_decodeWord h, hop, fun q hq => (hqa q hq).symm, fun q hq => (hqb q hq).symm,
    fun q hq => (hqr q hq).symm⟩

/-- Settles O7: the word is that of the command the line names, which decodes to it. -/
theorem assembledLinesDecodeToWhatWasWritten : Obligations.AssembledLinesDecodeToWhatWasWritten := by
  intro l w h
  obtain ⟨i, hinstr, hused, hwf, rfl⟩ := assemble_eq_ok_iff.1 h
  obtain ⟨hrow, hqa, hqb, hqr⟩ := asmInstr_spec hinstr
  obtain ⟨ha, hb, hr⟩ := asmFieldsUsed_iff.1 hused
  exact ⟨i, hinstr, decodeWord_encode hwf, hrow, getD_eq_of_used ha hqa, getD_eq_of_used hb hqb,
    getD_eq_of_used hr hqr, ha, hb, hr⟩

/-- Settles O21: reset is a step, and in every other case the block advances. -/
theorem everyStepHasANextState : Obligations.EveryStepHasANextState := by
  intro s
  rw [step]
  rcases tick_cases s with
    ⟨-, htick⟩ | ⟨rest, -, htick⟩ | ⟨a, rest, -, htick⟩ | ⟨rest, -, htick⟩ <;> rw [htick]
  · exact advance_next s
  · exact advance_next _
  · exact advance_next _
  · exact ⟨_, rfl⟩

/-- Settles O6: each word is the encoding of its command. -/
theorem sampleWordsDecode : Obligations.SampleWordsDecode :=
  ⟨decodeWord_encode (i := .tofix 16) rfl, decodeWord_encode (i := .qconv 16 24) rfl,
    decodeWord_encode (i := .qmul 15) rfl, decodeWord_encode (i := .qsubi 16) rfl,
    decodeWord_encode (i := .gmul 16 8 12) rfl, decodeWord_encode (i := .fsqrt 8) rfl,
    decodeWord_encode (i := .trig) rfl, decodeWord_encode (i := .revpark) rfl⟩

end Sys2Proof.Proofs
end

section
/-!
The words of the fixed-point statements in the model's terms: the floor, the truncated quotient and the
conversion of 00_scope.md R7 and R9, and how a command completes (40_fixed_point.md R80, R82).
-/
namespace Sys2Proof.Machine
open Sys2Proof.Claims

/-! ### Rounding and conversion -/

/-- The floor is the only integer with the two bounds of `FloorShift` (R7). -/
theorem floorShift_iff {x r : Int} {q : Nat} : FloorShift x q r ↔ asr x q = r := by
  have hpos : (0 : Int) < 2 ^ q := by positivity
  rw [asr, Int.fdiv_eq_ediv_of_nonneg _ hpos.le, Int.ediv_eq_iff_of_pos hpos, FloorShift, add_one_mul]

theorem floorShift_asr (x : Int) (q : Nat) : FloorShift x q (asr x q) := floorShift_iff.2 rfl

/-- A right shift undoes the exact left shift. -/
@[simp] theorem asr_shl (x : Int) (q : Nat) : asr (shl x q) q = x :=
  Int.mul_fdiv_cancel _ (by positivity)

/-- `wrap` is the only integer of the signed range that differs by a multiple of `2^32` (R7). -/
theorem wrap_eq_iff {x r : Int} :
    wrap 32 x = r ↔ (∃ k : Int, r = x + k * 2 ^ 32) ∧ -2 ^ 31 ≤ r ∧ r < 2 ^ 31 := by
  have hdvd : (4294967296 : Int) ∣ r - x ↔ ∃ k : Int, r = x + k * 2 ^ 32 :=
    exists_congr fun k => by omega
  rw [wrap, Int.bmod_eq_iff (by decide), ← hdvd]
  omega

/-- The conversion of the statements is the model's (R9). -/
theorem convertsTo_iff {v r : Int} {qf qt : Nat} : ConvertsTo v qf qt r ↔ conv32 v qf qt = r := by
  unfold ConvertsTo conv32
  split
  · exact wrap_eq_iff.symm
  · exact floorShift_iff

/-- The magnitude of the truncated quotient is the floor of the quotient of the magnitudes (R7). -/
theorem abs_tdiv (n d : Int) : |n.tdiv d| = |n| / |d| := by
  simp only [Int.abs_eq_natAbs, Int.natAbs_tdiv]
  rfl

theorem tdiv_mul_nonneg (n d : Int) : 0 ≤ n.tdiv d * (n * d) := by
  rw [← Int.sign_nonneg_iff, Int.sign_mul, Int.sign_mul, Int.sign_tdiv]
  split
  · simp
  · exact mul_self_nonneg _

/-- Division that rounds toward zero meets the statements' description of it (R7, decision D6). -/
theorem truncates_tdiv (n : Int) {d : Int} (hd : d ≠ 0) : Truncates n d (n.tdiv d) := by
  have hpos : 0 < |d| := abs_pos.2 hd
  rw [Truncates, abs_tdiv]
  exact ⟨Int.ediv_mul_le _ hpos.ne', Int.lt_ediv_add_one_mul_self _ hpos, tdiv_mul_nonneg n d⟩

/-! ### Completing a command -/

theorem completeFixed_next (r : Int) (s : State) : completeFixed r s = .next (withRes0 s r) :=
  completeFixed_eq r s

theorem completeDivide_next (n : Int) {d : Int} (hd : d ≠ 0) (s : State) :
    completeDivide n d s = .next (withRes0 s (n.tdiv d)) := by
  rw [completeDivide_eq, if_neg hd]
  rfl

theorem completeDivide_fault (n : Int) {d : Int} (hd : d = 0) (s : State) :
    completeDivide n d s = .next (faulted 2#4 s) := by
  rw [completeDivide_eq, if_pos hd, raiseFault_eq_faulted]
  rfl

/-- A dividing command by its divisor, in the words of the statements (40_fixed_point.md R89). -/
theorem completeDivide_spec (n d : Int) (s : State) :
    (d ≠ 0 → ∃ k, Truncates n d k ∧ completeDivide n d s = .next (withRes0 s k)) ∧
    (d = 0 → completeDivide n d s = .next (faulted 2#4 s)) :=
  ⟨fun hd => ⟨_, truncates_tdiv n hd, completeDivide_next n hd s⟩,
    fun hd => completeDivide_fault n hd s⟩

end Sys2Proof.Machine
end

section
/-!
Fixed-width words against exact integers: a datapath that wraps gives the low bits of the exact result
(40_fixed_point.md R82).
-/
namespace Sys2Proof.Machine

variable {m n : Nat}

theorem ofInt_wrap (x : Int) : BitVec.ofInt n (wrap n x) = BitVec.ofInt n x := bits_wrap n x

theorem ofInt_sub (x y : Int) : BitVec.ofInt n (x - y) = BitVec.ofInt n x - BitVec.ofInt n y := by
  rw [Int.sub_eq_add_neg, BitVec.ofInt_add, BitVec.ofInt_neg, BitVec.sub_eq_add_neg]

theorem ofInt_two_pow (q : Nat) : BitVec.ofInt n (2 ^ q) = BitVec.twoPow n q := by
  apply BitVec.eq_of_toNat_eq
  rw [BitVec.toNat_twoPow, BitVec.toNat_ofInt]
  norm_cast

theorem ofInt_mul_two_pow (x : Int) (q : Nat) :
    BitVec.ofInt n (x * 2 ^ q) = BitVec.ofInt n x <<< q := by
  rw [BitVec.ofInt_mul, ofInt_two_pow, BitVec.shiftLeft_eq_mul_twoPow]

theorem toInt_shiftLeft_eq_wrap (r : BitVec n) (q : Nat) :
    (r <<< q).toInt = wrap n (shl r.toInt q) := by
  rw [wrap_eq_toInt, bits, shl, ofInt_mul_two_pow, BitVec.ofInt_toInt]

theorem toInt_sshiftRight_eq_asr (r : BitVec n) (q : Nat) :
    (r.sshiftRight q).toInt = asr r.toInt q := by
  rw [BitVec.toInt_sshiftRight, Int.shiftRight_eq_div_pow, asr,
    Int.fdiv_eq_ediv_of_nonneg _ (by positivity)]
  norm_cast

theorem ofInt_asr (r : BitVec n) (q : Nat) : BitVec.ofInt n (asr r.toInt q) = r.sshiftRight q := by
  rw [← toInt_sshiftRight_eq_asr, BitVec.ofInt_toInt]

theorem ofInt_tdiv (a b : BitVec n) : BitVec.ofInt n (a.toInt.tdiv b.toInt) = a.sdiv b := by
  rw [← BitVec.toInt_inj, BitVec.toInt_sdiv, BitVec.toInt_ofInt]

theorem toInt_eq_zero_iff {r : BitVec n} : r.toInt = 0 ↔ r = 0#n := by
  rw [← BitVec.toInt_inj, BitVec.toInt_zero]

/-- The low bits of the low bits of an integer are its low bits. -/
theorem setWidth_ofInt (h : m ≤ n) (x : Int) : (BitVec.ofInt n x).setWidth m = BitVec.ofInt m x := by
  have hdvd : ((2 ^ m : Nat) : Int) ∣ (2 ^ n : Nat) := by exact_mod_cast Nat.pow_dvd_pow 2 h
  apply BitVec.eq_of_toNat_eq
  zify
  simp only [BitVec.toNat_setWidth, BitVec.toNat_ofInt]
  rw [Int.natCast_mod, Int.toNat_of_nonneg (Int.emod_nonneg _ (by positivity)),
    Int.emod_emod_of_dvd _ hdvd, Int.toNat_of_nonneg (Int.emod_nonneg _ (by positivity))]

/-- A conversion to another format is a shift of the 32-bit register (00_scope.md R9). -/
theorem toInt_convert (v : Word) (qf qt : Nat) :
    (if qf < qt then v <<< (qt - qf) else v.sshiftRight (qf - qt)).toInt = conv32 v.toInt qf qt := by
  unfold conv32
  split
  · exact toInt_shiftLeft_eq_wrap v _
  · exact toInt_sshiftRight_eq_asr v _

end Sys2Proof.Machine
end

section
/-! Each fixed-point command as an equation (40_fixed_point.md R83 to R97). -/
namespace Sys2Proof.Machine
open Sys2Proof.Claims

variable (q qa qb qr : Nat) (s : State)

theorem exec_tofix : exec (.tofix q) s = .next (withRes0 s (s.opa.toInt * 2 ^ q)) :=
  completeFixed_next _ s

theorem exec_fromfix : exec (.fromfix q) s = .next (withRes0 s (asr s.opa.toInt q)) :=
  completeFixed_next _ s

theorem exec_qconv : exec (.qconv qa qr) s = .next (withRes0 s (conv32 s.opa.toInt qa qr)) :=
  completeFixed_next _ s

theorem exec_qadd : exec .qadd s = .next (withRes0 s (s.opa.toInt + s.opb.toInt)) :=
  completeFixed_next _ s

theorem exec_qsub : exec .qsub s = .next (withRes0 s (s.opa.toInt - s.opb.toInt)) :=
  completeFixed_next _ s

theorem exec_qmul : exec (.qmul q) s = .next (withRes0 s (asr (s.opa.toInt * s.opb.toInt) q)) :=
  completeFixed_next _ s

theorem exec_qdiv : exec (.qdiv q) s = completeDivide (s.opa.toInt * 2 ^ q) s.opb.toInt s := rfl

/-- The wrap of the shifted integer does not show in the wrapped sum (R90). -/
theorem exec_qaddi : exec (.qaddi q) s = .next (withRes0 s (s.opa.toInt + s.opb.toInt * 2 ^ q)) :=
  (completeFixed_next _ s).trans (by simp only [withRes0, op32, shl, BitVec.ofInt_add, ofInt_wrap])

/-- The wrap of the shifted integer does not show in the wrapped difference (R91). -/
theorem exec_qsubi : exec (.qsubi q) s = .next (withRes0 s (s.opa.toInt - s.opb.toInt * 2 ^ q)) :=
  (completeFixed_next _ s).trans (by simp only [withRes0, op32, shl, ofInt_sub, ofInt_wrap])

theorem exec_qmuli : exec .qmuli s = .next (withRes0 s (s.opa.toInt * s.opb.toInt)) :=
  completeFixed_next _ s

theorem exec_qdivi : exec .qdivi s = completeDivide s.opa.toInt s.opb.toInt s := rfl

theorem exec_gadd : exec (.gadd qa qb qr) s =
    .next (withRes0 s (conv32 s.opa.toInt qa qr + conv32 s.opb.toInt qb qr)) :=
  completeFixed_next _ s

theorem exec_gsub : exec (.gsub qa qb qr) s =
    .next (withRes0 s (conv32 s.opa.toInt qa qr - conv32 s.opb.toInt qb qr)) :=
  completeFixed_next _ s

theorem exec_gmul : exec (.gmul qa qb qr) s =
    .next (withRes0 s (convExact (s.opa.toInt * s.opb.toInt) (qa + qb) qr)) :=
  completeFixed_next _ s

theorem exec_gdiv : exec (.gdiv qa qb qr) s =
    completeDivide (conv32 s.opa.toInt qa qr * 2 ^ qr) (conv32 s.opb.toInt qb qr) s := rfl

end Sys2Proof.Machine
end

section
/-!
The 64-bit datapath: 64 bits hold every product and every shifted dividend, so no bit is lost before the
narrowing (40_fixed_point.md R81).
-/
namespace Sys2Proof.Machine

/-! ### What fits in 64 bits -/

theorem abs_toInt_le (r : Word) : |r.toInt| ≤ 2 ^ 31 :=
  abs_le.2 ⟨BitVec.le_toInt r, BitVec.toInt_lt.le⟩

theorem toInt_ofInt_of_abs_le {x : Int} (h : |x| ≤ 2 ^ 62) : (BitVec.ofInt 64 x).toInt = x := by
  obtain ⟨hle, hge⟩ := abs_le.1 h
  exact BitVec.toInt_ofInt_eq_self (by decide) (by omega) (by omega)

/-- `|p| ≤ 2^62` (R88). -/
theorem abs_product_le (a b : Word) : |a.toInt * b.toInt| ≤ 2 ^ 62 := by
  rw [abs_mul]
  exact mul_le_mul (abs_toInt_le a) (abs_toInt_le b) (abs_nonneg _) (by positivity)

/-- `|n| ≤ 2^62` (R89). -/
theorem abs_shifted_le (a : Word) {q : Nat} (hq : q < 32) : |a.toInt * 2 ^ q| ≤ 2 ^ 62 := by
  have hpow : (2 : Int) ^ q ≤ 2 ^ 31 := pow_le_pow_right₀ (by decide) (by omega)
  rw [abs_mul, abs_of_pos (by positivity : (0 : Int) < 2 ^ q)]
  exact mul_le_mul (abs_toInt_le a) hpow (by positivity) (by positivity)

/-! ### Products -/

theorem signExtend_mul (a b : Word) :
    a.signExtend 64 * b.signExtend 64 = BitVec.ofInt 64 (a.toInt * b.toInt) :=
  (BitVec.ofInt_mul _ _).symm

theorem low_product_sshiftRight (a b : Word) (q : Nat) :
    ((a.signExtend 64 * b.signExtend 64).sshiftRight q).setWidth 32 =
      BitVec.ofInt 32 (asr (a.toInt * b.toInt) q) := by
  rw [signExtend_mul, ← ofInt_asr, toInt_ofInt_of_abs_le (abs_product_le a b),
    setWidth_ofInt (by decide)]

theorem low_product_shiftLeft (a b : Word) (q : Nat) :
    ((a.signExtend 64 * b.signExtend 64) <<< q).setWidth 32 =
      BitVec.ofInt 32 (shl (a.toInt * b.toInt) q) := by
  rw [signExtend_mul, ← ofInt_mul_two_pow, setWidth_ofInt (by decide), shl]

/-! ### Quotients -/

/-- The 64-bit signed divider gives the truncated quotient of the exact shifted dividend. -/
theorem low_quotient (a b : Word) {q : Nat} (hq : q < 32) :
    (BitVec.sdiv (a.signExtend 64 <<< q) (b.signExtend 64)).setWidth 32 =
      BitVec.ofInt 32 ((a.toInt * 2 ^ q).tdiv b.toInt) := by
  have hshift : a.signExtend 64 <<< q = BitVec.ofInt 64 (a.toInt * 2 ^ q) :=
    (ofInt_mul_two_pow _ _).symm
  rw [hshift, ← ofInt_tdiv, toInt_ofInt_of_abs_le (abs_shifted_le a hq),
    BitVec.toInt_signExtend_of_le (by decide), setWidth_ofInt (by decide)]

theorem completeDivide_datapath (s : State) (a : Word) {b : Word} {q : Nat} (hq : q < 32)
    (hb : b ≠ 0#32) : completeDivide (a.toInt * 2 ^ q) b.toInt s =
      .next { s with
        res0 := (BitVec.sdiv (a.signExtend 64 <<< q) (b.signExtend 64)).setWidth 32 } := by
  rw [completeDivide_next _ (toInt_eq_zero_iff.not.2 hb), low_quotient a b hq]
  rfl

end Sys2Proof.Machine
end

section
/-! The statements of 40_fixed_point.md. -/
namespace Sys2Proof.Proofs
open Sys2Proof Sys2Proof.Machine Sys2Proof.Claims

/-- Settles O31: the result is a register shifted right, and where the product fits the second shift
undoes the first. -/
theorem fromfixFloorsAndUndoesTofix : Obligations.FromfixFloorsAndUndoesTofix := by
  intro q s
  refine ⟨⟨rfl, rfl, rfl, rfl⟩, ⟨_, floorShift_asr _ q, ?_, ?_, exec_fromfix q s⟩, ?_⟩
  · rw [← toInt_sshiftRight_eq_asr]
    exact BitVec.le_toInt _
  · rw [← toInt_sshiftRight_eq_asr]
    exact BitVec.toInt_lt
  · rintro ⟨hle, hlt⟩
    refine ⟨_, _, exec_tofix q s, exec_fromfix q _, ?_⟩
    have hfits : (BitVec.ofInt 32 (s.opa.toInt * 2 ^ q)).toInt = shl s.opa.toInt q :=
      BitVec.toInt_ofInt_eq_self (by decide) hle hlt
    simp only [withRes0, hfits, asr_shl, BitVec.ofInt_toInt]

/-- Settles O32. -/
theorem qconvConvertsBetweenFormats : Obligations.QconvConvertsBetweenFormats := fun qa qr s =>
  ⟨⟨rfl, rfl, rfl, rfl⟩, _, convertsTo_iff.2 rfl, exec_qconv qa qr s⟩

/-- Settles O34. -/
theorem qmulFloorsTheExactProduct : Obligations.QmulFloorsTheExactProduct := fun q s =>
  ⟨⟨rfl, rfl, rfl, rfl⟩, _, floorShift_asr _ q, exec_qmul q s⟩

/-- Settles O35: the divisor register is 0 exactly when its integer is. -/
theorem qdivTruncatesTheShiftedDividend : Obligations.QdivTruncatesTheShiftedDividend := by
  intro q s
  obtain ⟨hquot, hfault⟩ := completeDivide_spec (s.opa.toInt * 2 ^ q) s.opb.toInt s
  exact ⟨⟨rfl, rfl, rfl, rfl⟩, fun hb => hquot (toInt_eq_zero_iff.not.2 hb),
    fun hb => hfault (toInt_eq_zero_iff.2 hb)⟩

/-- Settles O36. -/
theorem qaddiAndQsubiShiftTheInteger : Obligations.QaddiAndQsubiShiftTheInteger := fun q s =>
  ⟨⟨rfl, rfl, rfl, rfl⟩, ⟨rfl, rfl, rfl, rfl⟩, exec_qaddi q s, exec_qsubi q s⟩

/-- Settles O38; the one quotient that does not fit is evaluated. -/
theorem qdiviTruncates : Obligations.QdiviTruncates := by
  intro s
  obtain ⟨hquot, hfault⟩ := completeDivide_spec s.opa.toInt s.opb.toInt s
  refine ⟨⟨rfl, rfl, rfl, rfl⟩, fun hb => hquot (toInt_eq_zero_iff.not.2 hb),
    fun hb => hfault (toInt_eq_zero_iff.2 hb), fun ha hb => ?_⟩
  have hnonzero : s.opb.toInt ≠ 0 := by rw [hb]; decide
  have hoverflow : BitVec.ofInt 32 (s.opa.toInt.tdiv s.opb.toInt) = 0x80000000#32 := by
    rw [ha, hb]
    decide
  rw [exec_qdivi, completeDivide_next _ hnonzero, withRes0, hoverflow]

/-- Settles O39: a conversion of the statement is the model's, and one between equal formats gives the
operand. -/
theorem gaddAndGsubConvertThenAdd : Obligations.GaddAndGsubConvertThenAdd := by
  intro s
  refine ⟨fun _ _ _ => ⟨⟨rfl, rfl, rfl, rfl⟩, rfl, rfl, rfl, rfl⟩, fun qa qb qr a b ha hb => ?_,
    fun q => ?_⟩
  · rw [exec_gadd, exec_gsub, convertsTo_iff.1 ha, convertsTo_iff.1 hb]
    exact ⟨rfl, rfl⟩
  · rw [exec_gadd, exec_gsub, exec_qadd, exec_qsub, conv32_same, conv32_same]
    exact ⟨rfl, rfl⟩

/-- Settles O40, by the direction of the shift; with equal formats it is to the right by the one Q. -/
theorem gmulConvertsTheExactProduct : Obligations.GmulConvertsTheExactProduct := by
  intro s
  refine ⟨fun _ _ _ => ⟨rfl, rfl, rfl, rfl⟩, fun qa qb qr => ⟨fun hlt => ?_, fun hle => ?_⟩,
    fun q => ?_⟩
  · rw [exec_gmul, convExact, if_pos hlt, shl]
  · refine ⟨_, floorShift_asr _ _, ?_⟩
    rw [exec_gmul, convExact, if_neg hle.not_gt]
  · rw [exec_gmul, exec_qmul, convExact, if_neg (by omega), Nat.add_sub_cancel]

/-- Settles O41. -/
theorem gdivDividesInTheResultFormat : Obligations.GdivDividesInTheResultFormat := by
  intro s
  refine ⟨fun _ _ _ => ⟨rfl, rfl, rfl, rfl⟩, fun qa qb qr a b ha hb => ?_, fun q => ?_⟩
  · rw [exec_gdiv, convertsTo_iff.1 ha, convertsTo_iff.1 hb]
    exact completeDivide_spec _ _ s
  · rw [exec_gdiv, exec_qdiv, conv32_same, conv32_same]

/-- Settles O42: every dividing command divides its `n` by its `d`, and the truncated quotient of the
magnitudes is their floor. -/
theorem divisionFollowsTheSignTable : Obligations.DivisionFollowsTheSignTable := by
  intro s i n d hoperands
  have hexec : exec i s = completeDivide n d s := by
    rcases hoperands with ⟨q, rfl, rfl, rfl⟩ | ⟨rfl, rfl, rfl⟩ | ⟨qa, qb, qr, a, rfl, ha, rfl, hd⟩
    · exact exec_qdiv q s
    · exact exec_qdivi s
    · rw [exec_gdiv, convertsTo_iff.1 ha, convertsTo_iff.1 hd]
  rw [hexec]
  refine ⟨fun hn hd => ?_, fun hn hd => ?_, fun hn hd => ?_, fun hn hd => ?_, fun hn hd => ?_,
    fun hd => completeDivide_fault n hd s⟩
  · rw [completeDivide_next n hd.ne', Int.fdiv_eq_tdiv_of_nonneg hn hd.le]
  · rw [completeDivide_next n hd.ne', Int.fdiv_eq_tdiv_of_nonneg (by omega) hd.le, Int.neg_tdiv,
      neg_neg]
  · rw [completeDivide_next n hd.ne, Int.fdiv_eq_tdiv_of_nonneg hn (by omega), Int.tdiv_neg, neg_neg]
  · rw [completeDivide_next n hd.ne, Int.fdiv_eq_tdiv_of_nonneg (by omega) (by omega), Int.neg_tdiv,
      Int.tdiv_neg, neg_neg]
  · rw [completeDivide_next n hd, hn, Int.zero_tdiv]

/-- Settles O43: taking the low bits carries each exact operation over to the operation on words, with
a left shift as the product by a power of two on both sides. -/
theorem thirtyTwoBitDatapathAgrees : Obligations.ThirtyTwoBitDatapathAgrees := by
  intro q s _
  rw [exec_tofix, exec_fromfix, exec_qadd, exec_qsub, exec_qaddi, exec_qsubi, exec_qmuli]
  simp only [withRes0, BitVec.ofInt_add, ofInt_sub, BitVec.ofInt_mul, ofInt_two_pow,
    BitVec.shiftLeft_eq_mul_twoPow, ofInt_asr, BitVec.ofInt_toInt, true_and]
  intro hb
  rw [exec_qdivi, completeDivide_next _ (toInt_eq_zero_iff.not.2 hb), withRes0, ofInt_tdiv]

/-- Settles O44: the 64-bit product is exact, so its shifts are those of the rule. -/
theorem sixtyFourBitDatapathMultiplies : Obligations.SixtyFourBitDatapathMultiplies := by
  intro s qa qb qr _ _ _ p
  rw [exec_qmul, exec_gmul, convExact, low_product_sshiftRight]
  refine ⟨rfl, ?_⟩
  split
  · rw [low_product_shiftLeft]
    rfl
  · rw [low_product_sshiftRight]
    rfl

/-- Settles O45: the 64-bit dividend is exact, and the conversions are the 32-bit shifts. -/
theorem sixtyFourBitDatapathDivides : Obligations.SixtyFourBitDatapathDivides := by
  intro s qa qb qr hqa _ hqr conv quot
  have hconv (v : Word) (qf : Nat) : (conv v qf).toInt = conv32 v.toInt qf qr := toInt_convert v qf qr
  refine ⟨completeDivide_datapath s s.opa hqa, fun hb => ?_⟩
  rw [exec_gdiv, ← hconv, ← hconv]
  exact completeDivide_datapath s (conv s.opa qa) hqr hb

/-- Settles O30. -/
theorem tofixShiftsLeftAndWraps : Obligations.TofixShiftsLeftAndWraps := fun q s =>
  ⟨⟨rfl, rfl, rfl, rfl⟩, exec_tofix q s⟩

/-- Settles O33. -/
theorem qaddAndQsubWrap : Obligations.QaddAndQsubWrap := fun s =>
  ⟨⟨rfl, rfl, rfl, rfl⟩, ⟨rfl, rfl, rfl, rfl⟩, exec_qadd s, exec_qsub s⟩

/-- Settles O37. -/
theorem qmuliKeepsTheLowProduct : Obligations.QmuliKeepsTheLowProduct := fun s =>
  ⟨⟨rfl, rfl, rfl, rfl⟩, exec_qmuli s⟩

end Sys2Proof.Proofs
end

section
/-!
The evaluator over a table: its index as bits of the register, one equation per quadrant, and the range
of its values (41_trig.md R121, R124, R125, R127).
-/
namespace Sys2Proof.Machine
open Sys2Proof.Claims

/-! ### The index as bits of the register (R124) -/

/-- The model and the statements read the same angle (10_state.md R27). -/
theorem op16_eq_low16 (r : Word) : op16 r = low16 r := by
  rw [op16, low16, BitVec.setWidth_eq_extractLsb' (by decide)]

/-- Adding 32768 before the division by 64 adds 512 after it, so the index is bits 15:6 of the register
with bit 15 inverted. -/
theorem trigIndex_op16 (r : Word) : trigIndex (op16 r) = r.extractLsb' 6 10 + 512#10 := by
  have hquot : Int.fdiv (op16 r + 32768) 64 = asr (op16 r) 6 + 512 :=
    Int.add_mul_fdiv_right (op16 r) 512 (by decide : (64 : Int) ≠ 0)
  have hbits : BitVec.ofInt 10 (asr (op16 r) 6) = r.extractLsb' 6 10 := by
    rw [op16, ← toInt_sshiftRight_eq_asr, ← BitVec.signExtend,
      BitVec.signExtend_eq_setWidth_of_le _ (by decide)]
    ext k hk
    have hlt : 6 + k < 16 := by omega
    have hnle : ¬ 16 ≤ k := by omega
    rw [BitVec.getElem_setWidth, BitVec.getLsbD_sshiftRight]
    simp [hlt, hnle]
  rw [trigIndex, hquot, BitVec.ofInt_add, hbits]
  rfl

theorem trigEntry_op16 (r : Word) : trigEntry (op16 r) = r.extractLsb' 6 8 := by
  rw [trigEntry, trigIndex_op16]
  apply BitVec.eq_of_toNat_eq
  simp only [BitVec.extractLsb'_toNat, BitVec.toNat_add, BitVec.toNat_ofNat, Nat.shiftRight_eq_div_pow]
  omega

/-- The selector is the quadrant of R123 with its upper bit inverted. -/
theorem trigSelector_op16 (r : Word) : trigSelector (op16 r) = r.extractLsb' 14 2 + 2#2 := by
  rw [trigSelector, trigIndex_op16]
  apply BitVec.eq_of_toNat_eq
  simp only [BitVec.extractLsb'_toNat, BitVec.toNat_add, BitVec.toNat_ofNat, Nat.shiftRight_eq_div_pow]
  omega

/-- The mirror entry as a subtraction of numbers (R129). -/
theorem mirrorEntry_eq (i : BitVec 8) : BitVec.ofNat 8 (255 - i.toNat) = 255#8 - i := by
  bv_omega

/-! ### The quadrants (R125) -/

section Quadrants
variable (T : SinTable) {a : Int} {i : BitVec 8}

theorem trigWith_quadrant_zero (hsel : trigSelector a = 2#2) (hi : trigEntry a = i) :
    trigWith T a = ((T (255#8 - i)).toInt, (T i).toInt) := by
  rw [trigWith, hsel, hi]
  rfl

theorem trigWith_quadrant_one (hsel : trigSelector a = 3#2) (hi : trigEntry a = i) :
    trigWith T a = (-(T i).toInt, (T (255#8 - i)).toInt) := by
  rw [trigWith, hsel, hi]
  rfl

theorem trigWith_quadrant_two (hsel : trigSelector a = 0#2) (hi : trigEntry a = i) :
    trigWith T a = (-(T (255#8 - i)).toInt, -(T i).toInt) := by
  rw [trigWith, hsel, hi]
  rfl

theorem trigWith_quadrant_three (hsel : trigSelector a = 1#2) (hi : trigEntry a = i) :
    trigWith T a = ((T i).toInt, -(T (255#8 - i)).toInt) := by
  rw [trigWith, hsel, hi]
  rfl

end Quadrants

/-- The evaluator sees an angle through its index alone (R128). -/
theorem trigWith_congr (T : SinTable) {a b : Int} (h : trigIndex a = trigIndex b) :
    trigWith T a = trigWith T b := by
  simp only [trigWith, trigEntry, trigSelector, h]

/-! ### Over a conforming table (R121, R126, R127) -/

section Conforming
variable {T : SinTable}

theorem SinTable.Conforms.first (hT : T.Conforms) : (T 0#8).toInt = 0 := by
  obtain ⟨hfirst, -, -⟩ := hT
  rw [hfirst]
  rfl

theorem SinTable.Conforms.last (hT : T.Conforms) : (T 255#8).toInt = 0x7FFE := by
  obtain ⟨-, hlast, -⟩ := hT
  rw [hlast]
  rfl

/-- The entry bound is symmetric, so a negated entry keeps to it as well. -/
theorem SinTable.Conforms.trigWith_range (hT : T.Conforms) (a : Int) :
    -32766 ≤ (trigWith T a).1 ∧ (trigWith T a).1 ≤ 32766 ∧
    -32766 ≤ (trigWith T a).2 ∧ (trigWith T a).2 ≤ 32766 := by
  obtain ⟨-, -, hbound⟩ := hT
  have here := hbound (trigEntry a)
  have mirrored := hbound (255#8 - trigEntry a)
  unfold trigWith
  split <;> dsimp only <;> omega

/-- Shaping replaces only what does not conform (R121). -/
theorem SinTable.Conforms.shapeTable_eq (hT : T.Conforms) : shapeTable T = T := by
  obtain ⟨hfirst, hlast, hbound⟩ := hT
  funext i
  unfold shapeTable
  split_ifs with hzero hmax hrange
  · rw [hzero, hfirst]
  · rw [hmax, hlast]
  · rfl
  · exact absurd (hbound i) hrange

end Conforming

/-! ### The block's table -/

theorem trig_range (a : Int) :
    -32766 ≤ (trig a).1 ∧ (trig a).1 ≤ 32766 ∧ -32766 ≤ (trig a).2 ∧ (trig a).2 ≤ 32766 :=
  sinTable_conforms.trigWith_range a

theorem toInt_sinTable_first : (sinTable 0#8).toInt = 0 := sinTable_conforms.first

theorem toInt_sinTable_last : (sinTable 255#8).toInt = 0x7FFE := sinTable_conforms.last

/-! ### The angles of R126 -/

theorem trig_zero : trig 0 = (0x7FFE, 0) := by
  rw [trig, trigWith_quadrant_zero sinTable (i := 0#8) rfl rfl, BitVec.sub_zero, toInt_sinTable_first,
    toInt_sinTable_last]

theorem trig_quarterTurn : trig 16384 = (0, 0x7FFE) := by
  rw [trig, trigWith_quadrant_one sinTable (i := 0#8) rfl rfl, BitVec.sub_zero, toInt_sinTable_first,
    toInt_sinTable_last, neg_zero]

theorem trig_negHalfTurn : trig (-32768) = (-0x7FFE, 0) := by
  rw [trig, trigWith_quadrant_two sinTable (i := 0#8) rfl rfl, BitVec.sub_zero, toInt_sinTable_first,
    toInt_sinTable_last, neg_zero]

theorem trig_belowHalfTurn : trig 32767 = (-0x7FFE, 0) := by
  rw [trig, trigWith_quadrant_one sinTable (i := 255#8) rfl rfl, BitVec.sub_self, toInt_sinTable_first,
    toInt_sinTable_last]

theorem trig_negQuarterTurn : trig (-16384) = (0, -0x7FFE) := by
  rw [trig, trigWith_quadrant_three sinTable (i := 0#8) rfl rfl, BitVec.sub_zero, toInt_sinTable_first,
    toInt_sinTable_last]

theorem trig_belowZero : trig (-1) = (0x7FFE, 0) := by
  rw [trig, trigWith_quadrant_three sinTable (i := 255#8) rfl rfl, BitVec.sub_self, toInt_sinTable_first,
    toInt_sinTable_last, neg_zero]

/-! ### The command -/

theorem exec_trig (s : State) :
    exec .trig s = .next (withResults s (trig (low16 s.opa)).1 (trig (low16 s.opa)).2) := by
  rw [← op16_eq_low16]
  rfl

end Sys2Proof.Machine
end

section
/-! The statements of 41_trig.md. -/
namespace Sys2Proof.Proofs
open Sys2Proof Sys2Proof.Machine Sys2Proof.Claims

/-- Settles O50: the selector is the quadrant with its upper bit inverted, and picks the pair. -/
theorem trigFoldsTheQuadrants : Obligations.TrigFoldsTheQuadrants := by
  intro s i here mirror
  have hentry : trigEntry (op16 s.opa) = i := trigEntry_op16 s.opa
  have hsel {p : BitVec 2} (hp : s.opa.extractLsb' 14 2 = p) :
      trigSelector (op16 s.opa) = p + 2#2 := hp ▸ trigSelector_op16 s.opa
  have hmirror : mirror = (sinTable (255#8 - i)).toInt := by rw [← mirrorEntry_eq]
  rw [exec_trig, ← op16_eq_low16, hmirror, trig]
  refine ⟨⟨rfl, rfl, rfl, rfl⟩, fun hp => ?_, fun hp => ?_, fun hp => ?_, fun hp => ?_⟩
  · rw [trigWith_quadrant_zero sinTable (hsel hp) hentry]
  · rw [trigWith_quadrant_one sinTable (hsel hp) hentry]
  · rw [trigWith_quadrant_two sinTable (hsel hp) hentry]
  · rw [trigWith_quadrant_three sinTable (hsel hp) hentry]

/-- Settles O52: a value in the range fits in a register. -/
theorem trigResultsStayInRange : Obligations.TrigResultsStayInRange := by
  refine ⟨trig_range, fun s => ⟨_, exec_trig s, ?_⟩⟩
  have hfits {x : Int} (hlo : -32766 ≤ x) (hhi : x ≤ 32766) : (BitVec.ofInt 32 x).toInt = x :=
    BitVec.toInt_ofInt_eq_self (by decide) (by omega) (by omega)
  obtain ⟨hcosLo, hcosHi, hsinLo, hsinHi⟩ := trig_range (low16 s.opa)
  simp only [withResults, hfits hcosLo hcosHi, hfits hsinLo hsinHi]
  exact ⟨hcosLo, hcosHi, hsinLo, hsinHi⟩

/-- Settles O53: the index is made of bits 15:6. -/
theorem trigReadsOnlyBits15To6 : Obligations.TrigReadsOnlyBits15To6 := by
  intro s v hbits
  have hindex : trigIndex (low16 v) = trigIndex (low16 s.opa) := by
    rw [← op16_eq_low16, ← op16_eq_low16, trigIndex_op16, trigIndex_op16, hbits]
  have htrig : trig (low16 v) = trig (low16 s.opa) := trigWith_congr sinTable hindex
  refine ⟨_, _, exec_trig s, exec_trig { s with opa := v }, ?_, ?_⟩
  · simp only [withResults, htrig]
  · simp only [withResults, htrig]

/-- Settles O54. -/
theorem everyConformingTableIsAdmitted : Obligations.EveryConformingTableIsAdmitted :=
  ⟨sinTable_conforms, fun _ hT => hT.shapeTable_eq⟩

/-- Settles O51, each row by the value of the evaluator at its angle. -/
theorem trigAtTheCanonicalAngles : Obligations.TrigAtTheCanonicalAngles := by
  intro s
  rw [exec_trig]
  refine ⟨fun h => ?_, fun h => ?_, fun h => ?_, fun h => ?_, fun h => ?_, fun h => ?_⟩
  · rw [h, trig_zero]
  · rw [h, trig_quarterTurn]
  · rw [h, trig_negHalfTurn]
  · rw [h, trig_belowHalfTurn]
  · rw [h, trig_negQuarterTurn]
  · rw [h, trig_belowZero]

end Sys2Proof.Proofs
end

section
/-!
The iterates of the square root (42_sqrt.md R141): the loop is six Newton steps, because a guess
that repeats is a fixed point; no guess is below 2, and guess plus quotient is bounded (R144).
-/
namespace Sys2Proof.Machine
open Sys2Proof.Claims

/-! ### One step -/

/-- The quotient of a 32-bit input by a guess that is not below its root. -/
theorem ediv_le_of_lt_succ_sq {x g : Int} (hx : x < 2 ^ 31) (hg : 0 < g) (hroot : x < (g + 1) ^ 2) :
    x / g ≤ 46342 := by
  have hprod : x < 46343 * g := by
    rcases le_or_gt g 46341 with hsmall | hlarge
    · nlinarith
    · omega
  have hquot : x / g < 46343 := Int.ediv_lt_of_lt_mul hg hprod
  omega

/-- A step at most halves the guess. -/
theorem le_sqrtNext {x g m : Int} (hx : 0 < x) (hm : 0 < m) (hg : 2 * m ≤ g) :
    m ≤ sqrtNext x g := by
  have hquot : 0 ≤ x / g := Int.ediv_nonneg hx.le (by omega)
  unfold sqrtNext
  omega

/-- A step does not fall below the floor of the root (R144 item 3), by the inequality of
the arithmetic and the geometric mean. -/
theorem lt_succ_sqrtNext_sq {x g : Int} (hg : 0 < g) : x < (sqrtNext x g + 1) ^ 2 := by
  have hfloor : g + x / g + 1 ≤ 2 * (sqrtNext x g + 1) := by unfold sqrtNext; omega
  have hquot : x < (x / g + 1) * g := Int.lt_ediv_add_one_mul_self x hg
  nlinarith [sq_nonneg (g - (sqrtNext x g + 1))]

/-- A step rounds down the exact Newton step `(g + x / g) / 2`. -/
theorem two_mul_sqrtNext_le {x g : Int} (hg : 0 < g) : 2 * g * sqrtNext x g ≤ g ^ 2 + x := by
  have hfloor : 2 * sqrtNext x g ≤ g + x / g := by unfold sqrtNext; omega
  have hquot : x / g * g ≤ x := Int.ediv_mul_le x hg.ne'
  nlinarith

/-! ### The iterates -/

/-- The iterates of the statements are those of the model. -/
theorem guess_eq_iterate (x : Int) (k : Nat) : guess x k = (sqrtNext x)^[k] (sqrtSeed x) := rfl

theorem guess_zero (x : Int) : guess x 0 = sqrtSeed x := rfl

theorem guess_succ (x : Int) (k : Nat) : guess x (k + 1) = sqrtNext x (guess x k) :=
  Function.iterate_succ_apply' ..

/-- A guess that repeats is every later guess. -/
theorem guess_eq_of_repeats {x : Int} {k m : Nat} (hkm : k ≤ m)
    (hrep : guess x (k + 1) = guess x k) : guess x m = guess x k := by
  induction m, hkm using Nat.le_induction with
  | base => rfl
  | succ m _ ih => rw [guess_succ, ih, ← guess_succ, hrep]

/-- Stopping at a fixed point gives what the remaining steps would give. -/
theorem sqrtLoop_eq_iterate (x : Int) (k : Nat) (g : Int) :
    sqrtLoop x k g = (sqrtNext x)^[k] g := by
  induction k generalizing g with
  | zero => rfl
  | succ k ih =>
    rw [sqrtLoop]
    split
    · next hfix => exact (Function.iterate_fixed hfix (k + 1)).symm
    · exact ih _

theorem isqrt_of_nonpos {x : Int} (hx : x ≤ 0) : isqrt x = 0 := if_pos hx

/-- The converged guess and the sixth value are one. -/
theorem isqrt_of_pos {x : Int} (hx : 0 < x) : isqrt x = guess x 6 := by
  rw [isqrt, if_neg hx.not_ge, sqrtLoop_eq_iterate, guess_eq_iterate, niter]

theorem sqrtSeed_cases (x : Int) :
    (x ≤ 2097152 ∧ sqrtSeed x = 128) ∨ (2097152 < x ∧ sqrtSeed x = 8192) := by
  unfold sqrtSeed
  split <;> omega

/-- Both seeds are at least `2^7`. -/
theorem two_pow_le_guess {x : Int} (hx : 0 < x) {k : Nat} (hk : k ≤ 7) :
    2 ^ (7 - k) ≤ guess x k := by
  induction k with
  | zero =>
    rw [guess_zero]
    rcases sqrtSeed_cases x with ⟨-, h⟩ | ⟨-, h⟩ <;> rw [h] <;> decide
  | succ k ih =>
    have hpow : (2 : Int) ^ (7 - k) = 2 * 2 ^ (7 - (k + 1)) := by
      rw [← pow_succ']
      congr 1
      omega
    rw [guess_succ]
    exact le_sqrtNext hx (by positivity) (hpow ▸ ih (by omega))

/-- No step divides by less than 2 (R144 item 1). -/
theorem two_le_guess {x : Int} (hx : 0 < x) {k : Nat} (hk : k ≤ 6) : 2 ≤ guess x k :=
  calc (2 : Int) = 2 ^ 1 := rfl
    _ ≤ 2 ^ (7 - k) := pow_le_pow_right₀ (by decide) (by omega)
    _ ≤ guess x k := two_pow_le_guess hx (by omega)

/-- From the first step on a guess is not below the floor of the root. -/
theorem lt_succ_guess_succ_sq {x : Int} (hx : 0 < x) {k : Nat} (hk : k ≤ 6) :
    x < (guess x (k + 1) + 1) ^ 2 := by
  have hpos := two_le_guess hx hk
  rw [guess_succ]
  exact lt_succ_sqrtNext_sq (by omega)

/-- The largest sum is the first one, `8192 + 262143` (R144 item 2). -/
theorem guess_add_ediv_le {x : Int} (hx : 0 < x) (hlt : x < 2 ^ 31) {k : Nat} (hk : k ≤ 6) :
    guess x k + x / guess x k ≤ 270335 := by
  induction k with
  | zero =>
    rw [guess_zero]
    rcases sqrtSeed_cases x with ⟨hle, h⟩ | ⟨-, h⟩ <;> rw [h] <;> omega
  | succ k ih =>
    have hguess : guess x (k + 1) ≤ 135167 := by
      have hsum := ih (by omega)
      rw [guess_succ, sqrtNext]
      omega
    have hpos := two_le_guess hx hk
    have hquot : x / guess x (k + 1) ≤ 46342 :=
      ediv_le_of_lt_succ_sq hlt (by omega) (lt_succ_guess_succ_sq hx (by omega))
    omega

end Sys2Proof.Machine
end

section
/-!
Six steps reach the root (42_sqrt.md R144 item 3). With `s` the real root, an exact Newton step
squares the ratio `(g - s) / (g + s)`, so six raise that of the seed to the power 64. Rounding down
never makes a guess larger, and a guess within 1 of `s` stays below `s + 1`.
-/
namespace Sys2Proof.Machine
open Sys2Proof.Claims

/-! ### Real Newton steps -/

section
variable {s g f c : ℝ}

/-- Once within 1 of the root, a step stays below the root plus 1. -/
theorem newton_lt_succ (hg : 1 ≤ g) (hstep : 2 * g * f ≤ g ^ 2 + s ^ 2) (hnear : |g - s| < 1) :
    f < s + 1 := by
  have herr : (g - s) ^ 2 < 1 := (sq_lt_one_iff_abs_lt_one _).2 hnear
  nlinarith

/-- A step squares the ratio of error to sum. -/
theorem newton_ratio_sq (hg : 0 < g) (hstep : 2 * g * f ≤ g ^ 2 + s ^ 2) (hc : c ^ 2 ≤ 1)
    (hratio : (g - s) ^ 2 ≤ ((g + s) * c) ^ 2) : f - s ≤ (f + s) * c ^ 2 := by
  have hscaled : 2 * g * f * (1 - c ^ 2) ≤ (g ^ 2 + s ^ 2) * (1 - c ^ 2) :=
    mul_le_mul_of_nonneg_right hstep (by linarith)
  have hprod : 2 * g * (f - s) ≤ 2 * g * ((f + s) * c ^ 2) := by nlinarith
  exact le_of_mul_le_mul_left hprod (by linarith)

/-- A ratio as small as this leaves an error below 1. -/
theorem lt_succ_of_ratio (hc : c ≤ 1) (hsmall : (2 * s + 1) * c < 1)
    (hratio : s + 1 ≤ g → g - s ≤ (g + s) * c) : g < s + 1 := by
  by_contra! hge
  have hbound : g - s ≤ (g + s) * c := hratio hge
  have hexcess : 0 ≤ (g - s - 1) * (1 - c) := mul_nonneg (by linarith) (by linarith)
  linarith

end

/-! ### The iterates of the model -/

/-- The ratio of error to sum at the seed, with the root `s`. -/
noncomputable def seedRatio (x : Int) (s : ℝ) : ℝ := (sqrtSeed x - s) / (sqrtSeed x + s)

section
variable {x : Int} {s : ℝ} {k : Nat}

theorem sqrtSeed_pos (x : Int) : (0 : ℝ) < sqrtSeed x := by
  rcases sqrtSeed_cases x with ⟨-, h⟩ | ⟨-, h⟩ <;> rw [h] <;> norm_num

theorem abs_seedRatio_le_iff (hs : 0 < s) (c : ℝ) :
    |seedRatio x s| ≤ c ↔ |sqrtSeed x - s| ≤ c * (sqrtSeed x + s) := by
  have hsum : (0 : ℝ) < sqrtSeed x + s := add_pos (sqrtSeed_pos x) hs
  rw [seedRatio, abs_div, abs_of_pos hsum, div_le_iff₀ hsum]

theorem abs_seedRatio_le_one (hs : 0 < s) : |seedRatio x s| ≤ 1 := by
  have hseed := sqrtSeed_pos x
  rw [abs_seedRatio_le_iff hs, abs_le]
  constructor <;> linarith

theorem seedRatio_pow_sq_le_one (hs : 0 < s) (n : Nat) : (seedRatio x s ^ n) ^ 2 ≤ 1 := by
  rw [sq_le_one_iff_abs_le_one, abs_pow]
  exact pow_le_one₀ (abs_nonneg _) (abs_seedRatio_le_one hs)

theorem two_le_cast_guess (hx : 0 < x) (hk : k ≤ 6) : (2 : ℝ) ≤ guess x k := by
  exact_mod_cast two_le_guess hx hk

/-- The step of the model as a real Newton step rounded down. -/
theorem two_mul_guess_succ_le (hx : 0 < x) (hsx : s ^ 2 = x) (hk : k ≤ 6) :
    2 * (guess x k : ℝ) * guess x (k + 1) ≤ (guess x k : ℝ) ^ 2 + s ^ 2 := by
  have hpos := two_le_guess hx hk
  rw [hsx, guess_succ]
  exact_mod_cast two_mul_sqrtNext_le (x := x) (by omega : 0 < guess x k)

/-- From the first step on a guess is above the root minus 1. -/
theorem root_lt_succ_guess_succ (hx : 0 < x) (hsx : s ^ 2 = x) (hk : k < 6) :
    s < guess x (k + 1) + 1 := by
  have hpos := two_le_cast_guess hx hk
  have hroot : s ^ 2 < ((guess x (k + 1) : ℝ) + 1) ^ 2 := by
    rw [hsx]
    exact_mod_cast lt_succ_guess_succ_sq hx hk.le
  exact lt_of_pow_lt_pow_left₀ 2 (by linarith) hroot

/-- One step of the ratio: it is squared. -/
theorem guess_succ_ratio_sq (hx : 0 < x) (hs : 0 < s) (hsx : s ^ 2 = x) (hk : k < 6)
    (hratio : (guess x k - s) ^ 2 ≤ ((guess x k + s) * seedRatio x s ^ 2 ^ k) ^ 2) :
    guess x (k + 1) - s ≤ (guess x (k + 1) + s) * seedRatio x s ^ 2 ^ (k + 1) := by
  have hpos := two_le_cast_guess hx hk.le
  rw [pow_succ 2 k, pow_mul]
  exact newton_ratio_sq (by linarith) (two_mul_guess_succ_le hx hsx hk.le)
    (seedRatio_pow_sq_le_one hs _) hratio

/-- From the first step on a guess is below the root plus 1, or as near to it as the exact steps
from the seed are. -/
theorem guess_succ_ratio (hx : 0 < x) (hs : 0 < s) (hsx : s ^ 2 = x) (hk : k < 6)
    (hge : s + 1 ≤ guess x (k + 1)) :
    guess x (k + 1) - s ≤ (guess x (k + 1) + s) * seedRatio x s ^ 2 ^ (k + 1) := by
  induction k with
  | zero =>
    refine guess_succ_ratio_sq hx hs hsx hk ?_
    have hsum : (sqrtSeed x : ℝ) + s ≠ 0 := (add_pos (sqrtSeed_pos x) hs).ne'
    rw [pow_zero, pow_one, seedRatio, guess_zero, mul_div_cancel₀ _ hsum]
  | succ k ih =>
    have hpos := two_le_cast_guess hx hk.le
    have hroot := root_lt_succ_guess_succ hx hsx (show k < 6 by omega)
    have habove : s + 1 ≤ guess x (k + 1) := by
      by_contra! hlt
      have hnear : |guess x (k + 1) - s| < 1 := abs_lt.2 ⟨by linarith, by linarith⟩
      exact hge.not_gt (newton_lt_succ (by linarith) (two_mul_guess_succ_le hx hsx hk.le) hnear)
    exact guess_succ_ratio_sq hx hs hsx hk
      (pow_le_pow_left₀ (by linarith) (ih (by omega) habove) 2)

/-! ### The seeds are near enough -/

/-- A bound on the ratio of the seed and one on the root. -/
theorem mul_seedRatio_pow_lt {c m : ℝ} (hs : 0 < s)
    (hratio : |sqrtSeed x - s| ≤ c * (sqrtSeed x + s)) (hm : s ≤ m)
    (hsmall : (2 * m + 1) * c ^ 64 < 1) : (2 * s + 1) * seedRatio x s ^ 64 < 1 := by
  rw [← abs_seedRatio_le_iff hs] at hratio
  have hpow : seedRatio x s ^ 64 ≤ c ^ 64 := by
    rw [← Even.pow_abs (by decide)]
    exact pow_le_pow_left₀ (abs_nonneg _) hratio 64
  have hnonneg : 0 ≤ c ^ 64 := (by decide : Even 64).pow_nonneg c
  calc (2 * s + 1) * seedRatio x s ^ 64 ≤ (2 * s + 1) * c ^ 64 :=
        mul_le_mul_of_nonneg_left hpow (by linarith)
    _ ≤ (2 * m + 1) * c ^ 64 := mul_le_mul_of_nonneg_right (by linarith) hnonneg
    _ < 1 := hsmall

/-- For a small root the power 64 of the ratio `(128 - s) / (128 + s)` is about `exp (-s)`; the
bound used here is that the ratio is at most `1 / (1 + s / 64)`. -/
theorem mul_seedRatio_pow_lt_of_small (hseed : sqrtSeed x = 128) (hlo : 2 ≤ s) (hhi : s ≤ 10) :
    (2 * s + 1) * seedRatio x s ^ 64 < 1 := by
  have hbernoulli : 1 + 16 * (s / 64) ≤ (1 + s / 64) ^ 16 :=
    one_add_mul_le_pow (show -2 ≤ s / 64 by linarith) 16
  have hgrow : 2 * s + 1 < (1 + s / 64) ^ 64 :=
    calc 2 * s + 1 < (1 + 16 * (s / 64)) ^ 4 := by
          have hpos : 0 ≤ s - 2 := by linarith
          nlinarith [pow_nonneg hpos 2, pow_nonneg hpos 3, pow_nonneg hpos 4]
      _ ≤ ((1 + s / 64) ^ 16) ^ 4 := pow_le_pow_left₀ (by linarith) hbernoulli 4
      _ = (1 + s / 64) ^ 64 := by rw [← pow_mul]
  have hnonneg : 0 ≤ seedRatio x s := by
    rw [seedRatio, hseed]
    exact div_nonneg (by norm_num; linarith) (by norm_num; linarith)
  have hratio : (1 + s / 64) * seedRatio x s ≤ 1 := by
    rw [seedRatio, hseed, mul_div_assoc', div_le_one (by norm_num; linarith)]
    norm_num
    nlinarith
  have hpow : (1 + s / 64) ^ 64 * seedRatio x s ^ 64 ≤ 1 := by
    rw [← mul_pow]
    exact pow_le_one₀ (mul_nonneg (by linarith) hnonneg) hratio
  rcases hnonneg.eq_or_lt with hzero | hpos
  · rw [← hzero]
    norm_num
  · exact (mul_lt_mul_of_pos_right hgrow (pow_pos hpos 64)).trans_le hpow

/-- The seed is near enough to the root of every input from 4 on. -/
theorem seedRatio_small (hx : 4 ≤ x) (hlt : x < 2 ^ 31) (hs : 0 < s) (hsx : s ^ 2 = x) :
    (2 * s + 1) * seedRatio x s ^ 64 < 1 := by
  have hxlo : (4 : ℝ) ≤ s ^ 2 := by rw [hsx]; exact_mod_cast hx
  have hxhi : s ^ 2 < (2 : ℝ) ^ 31 := by rw [hsx]; exact_mod_cast hlt
  rcases sqrtSeed_cases x with ⟨hle, hseed⟩ | ⟨hgt, hseed⟩
  · have hle' : s ^ 2 ≤ 2097152 := by rw [hsx]; exact_mod_cast hle
    rcases le_or_gt s 10 with hsmall | hlarge
    · exact mul_seedRatio_pow_lt_of_small hseed (by nlinarith) hsmall
    · have hhi : s ≤ 1449 := by nlinarith
      refine mul_seedRatio_pow_lt (c := 6 / 7) hs ?_ hhi (by norm_num)
      rw [hseed, abs_le]
      push_cast
      constructor <;> linarith
  · have hgt' : (2097152 : ℝ) < s ^ 2 := by rw [hsx]; exact_mod_cast hgt
    have hlo : 1448 ≤ s := by nlinarith
    have hhi : s ≤ 46341 := by nlinarith
    refine mul_seedRatio_pow_lt (c := 3 / 4) hs ?_ hhi (by norm_num)
    rw [hseed, abs_le]
    push_cast
    constructor <;> linarith

theorem guess_six_lt_succ_root (hx : 4 ≤ x) (hlt : x < 2 ^ 31) (hs : 0 < s) (hsx : s ^ 2 = x) :
    guess x 6 < s + 1 := by
  have hratio : seedRatio x s ^ 64 ≤ 1 := by
    simpa only [← pow_mul] using seedRatio_pow_sq_le_one hs 32
  exact lt_succ_of_ratio hratio (seedRatio_small hx hlt hs hsx)
    (guess_succ_ratio (by omega) hs hsx (by decide))

/-- The same without the real root; 2 and 3 are too near to 0 for the ratio, and evaluated. -/
theorem guess_six_sub_one_sq_lt (hx : 1 < x) (hlt : x < 2 ^ 31) : (guess x 6 - 1) ^ 2 < x := by
  rcases lt_or_ge x 4 with hsmall | hlarge
  · interval_cases x
    · decide
    · decide
  · have hxpos : (0 : ℝ) < x := by exact_mod_cast (by omega : 0 < x)
    have hsx : √(x : ℝ) ^ 2 = x := Real.sq_sqrt hxpos.le
    have hnear := guess_six_lt_succ_root hlarge hlt (Real.sqrt_pos.2 hxpos) hsx
    have hpos := two_le_cast_guess (x := x) (k := 6) (by omega) le_rfl
    have hsq : ((guess x 6 : ℝ) - 1) ^ 2 < x := by
      rw [← hsx]
      exact pow_lt_pow_left₀ (by linarith) (by linarith) (by decide)
    exact_mod_cast hsq

/-- The result is within 1 of the root, except for the input 1 (R144 item 3). -/
theorem isqrt_bounds (hx : 1 < x) (hlt : x < 2 ^ 31) :
    (isqrt x - 1) ^ 2 < x ∧ x < (isqrt x + 1) ^ 2 := by
  rw [isqrt_of_pos (by omega)]
  exact ⟨guess_six_sub_one_sq_lt hx hlt, lt_succ_guess_succ_sq (by omega) (by decide)⟩

end

end Sys2Proof.Machine
end

section
/-! The two commands in the terms of the statements (42_sqrt.md R142, R143). -/
namespace Sys2Proof.Machine
open Sys2Proof.Claims

theorem exec_isqrt (s : State) : exec .isqrt s = .next (withRes0 s (isqrt s.opa.toInt)) := rfl

theorem exec_fsqrt (q : Nat) (s : State) :
    exec (.fsqrt q) s = .next (withRes0 s (isqrt (s.opa <<< q).toInt)) := by
  rw [toInt_shiftLeft_eq_wrap]
  rfl

theorem isqrt_one : isqrt 1 = 2 := by decide

theorem isqrt_nonneg (x : Int) : 0 ≤ isqrt x := by
  rcases le_or_gt x 0 with hx | hx
  · rw [isqrt_of_nonpos hx]
  · rw [isqrt_of_pos hx]
    exact zero_le_two.trans (two_le_guess hx le_rfl)

/-- Within 1 of the root there are only its floor and the next integer (R144 item 3). -/
theorem isqrt_eq_sqrt_or_succ {n : Nat} (hn : 0 < n) (hlt : n < 2 ^ 31) :
    isqrt n = (Nat.sqrt n : Int) ∨ isqrt n = (Nat.sqrt n : Int) + 1 := by
  rcases (show n = 1 ∨ 1 < n by omega) with rfl | hone
  · exact .inr isqrt_one
  · obtain ⟨hlo, hhi⟩ := isqrt_bounds (x := n) (by exact_mod_cast hone) (by exact_mod_cast hlt)
    have hnonneg := isqrt_nonneg n
    have hsqrt : (Nat.sqrt n : Int) ^ 2 ≤ n := by exact_mod_cast Nat.sqrt_le' n
    have hsucc : (n : Int) < (Nat.sqrt n + 1) ^ 2 := by exact_mod_cast Nat.lt_succ_sqrt' n
    have hge : (Nat.sqrt n : Int) < isqrt n + 1 :=
      lt_of_pow_lt_pow_left₀ 2 (by omega) (hsqrt.trans_lt hhi)
    have hle : isqrt n - 1 < (Nat.sqrt n : Int) + 1 :=
      lt_of_pow_lt_pow_left₀ 2 (by omega) (hlo.trans hsucc)
    omega

/-- The only integer within 1 of the root of a square is the root (R144 item 5). -/
theorem isqrt_sq {n : Nat} (hle : n ≤ 46340) :
    isqrt ((n : Int) ^ 2) = if n = 1 then 2 else (n : Int) := by
  rcases (show n = 0 ∨ n = 1 ∨ 2 ≤ n by omega) with rfl | rfl | htwo
  · exact isqrt_of_nonpos le_rfl
  · exact isqrt_one
  · obtain ⟨hlo, hhi⟩ := isqrt_bounds (x := (n : Int) ^ 2) (by nlinarith) (by nlinarith)
    have hnonneg := isqrt_nonneg ((n : Int) ^ 2)
    have hge : (n : Int) < isqrt (n ^ 2) + 1 := lt_of_pow_lt_pow_left₀ 2 (by omega) hhi
    have hlt : isqrt (n ^ 2) - 1 < (n : Int) := lt_of_pow_lt_pow_left₀ 2 (by omega) hlo
    rw [if_neg (by omega)]
    omega

end Sys2Proof.Machine
end

section
/-! The statements of 42_sqrt.md. -/
namespace Sys2Proof.Proofs
open Sys2Proof Sys2Proof.Machine Sys2Proof.Claims

/-- Settles O46: the sixth value, which a guess that repeats already is. -/
theorem isqrtRunsAtMostSixNewtonSteps : Obligations.IsqrtRunsAtMostSixNewtonSteps := by
  intro s
  refine ⟨⟨rfl, rfl, rfl, rfl⟩, fun hx => ?_, fun hx => ?_⟩
  · rw [exec_isqrt, isqrt_of_nonpos hx]
  · rw [exec_isqrt, isqrt_of_pos hx]
    exact ⟨_, rfl, fun _ => rfl, fun k hk hrep => guess_eq_of_repeats hk.le hrep⟩

/-- Settles O47: the sign bit of a positive register is clear, and the square of a number up to
46340 fits in a register. -/
theorem isqrtIsTheFloorRootOrOneMore : Obligations.IsqrtIsTheFloorRootOrOneMore := by
  refine ⟨fun s hx => ?_, fun s n hn hopa => ?_⟩
  · have hnat : s.opa.toInt = s.opa.toNat :=
      BitVec.toInt_eq_toNat_of_lt (BitVec.toInt_pos_iff.1 hx.le)
    have hlt : s.opa.toNat < 2 ^ 31 := by
      have hupper := BitVec.toInt_lt (x := s.opa)
      omega
    rw [exec_isqrt, hnat]
    rcases isqrt_eq_sqrt_or_succ (by omega) hlt with h | h
    · exact ⟨_, by rw [h], .inl rfl⟩
    · exact ⟨_, by rw [h]; rfl, .inr rfl⟩
  · have hfits : (n : Int) ^ 2 < 2 ^ 31 := by nlinarith
    have hsq : s.opa.toInt = (n : Int) ^ 2 := by
      rw [hopa, ← BitVec.ofInt_natCast, Int.natCast_mul, ← sq]
      exact BitVec.toInt_ofInt_eq_self (by decide) (le_trans (by decide) (sq_nonneg _)) hfits
    rw [exec_isqrt, hsq, isqrt_sq hn]

/-- Settles O48; the result is always the sixth iterate. -/
theorem squareRootNeverDividesByZeroOrOverflows :
    Obligations.SquareRootNeverDividesByZeroOrOverflows := by
  intro x hx hlt
  refine ⟨fun k hk => ?_, 6, le_rfl, isqrt_of_pos hx⟩
  have hguess := two_le_guess hx hk.le
  have hquot : 0 ≤ x / guess x k := Int.ediv_nonneg hx.le (by omega)
  exact ⟨hguess, hquot, guess_add_ediv_le hx hlt hk.le⟩

/-- Settles O49: the wrapped shift of the operand is the shift of its register. -/
theorem fsqrtIsIsqrtOfTheWrappedShift : Obligations.FsqrtIsIsqrtOfTheWrappedShift := fun q s =>
  ⟨⟨rfl, rfl, rfl, rfl⟩, _, exec_isqrt _, exec_fsqrt q s⟩

end Sys2Proof.Proofs
end

section
/-!
Amplitudes of 16 bits: how the low half of a register and an exact result are narrowed, what fits, and
that 32-bit words lose nothing (10_state.md R27, 43_transforms.md R151).
-/
namespace Sys2Proof.Machine
open Sys2Proof.Claims

/-! ### The low half of a register -/

theorem abs_low16_le (r : Word) : |low16 r| ≤ 32768 := by
  obtain ⟨hlo, hhi⟩ := op16_range r
  rw [op16_eq_low16] at hlo hhi
  exact abs_le.2 ⟨hlo, by omega⟩

/-- An operand as a 32-bit word. -/
theorem ofInt_low16 (r : Word) : BitVec.ofInt 32 (low16 r) = (r.setWidth 16).signExtend 32 := rfl

/-! ### Saturation (R151) -/

theorem sat16n_eq_cut (x : Int) : sat16n x = cut x := by
  rw [sat16n_eq_clamp, clamp, cut]
  split_ifs <;> omega

theorem cut_range (x : Int) : -32767 ≤ cut x ∧ cut x ≤ 32767 :=
  sat16n_eq_cut x ▸ sat16n_range x

theorem cut_of_abs_le {x : Int} (h : |x| ≤ 32767) : cut x = x := by
  obtain ⟨hlo, hhi⟩ := abs_le.1 h
  rw [cut, min_eq_right hhi, max_eq_right hlo]

theorem toInt_ofInt_cut (x : Int) : (BitVec.ofInt 32 (cut x)).toInt = cut x := by
  obtain ⟨hlo, hhi⟩ := cut_range x
  exact BitVec.toInt_ofInt_eq_self (by decide) (by omega) (by omega)

/-- Two signed comparisons saturate a word. -/
theorem ofInt_cut_toInt (w : Word) : BitVec.ofInt 32 (cut w.toInt) =
    if (32767#32).slt w then 32767#32 else if w.slt (-32767#32) then -32767#32 else w := by
  have hmax : (32767#32).slt w = true ↔ 32767 < w.toInt := BitVec.slt_iff_toInt_lt
  have hmin : w.slt (-32767#32) = true ↔ w.toInt < -32767 := BitVec.slt_iff_toInt_lt
  simp only [hmax, hmin]
  split_ifs with habove hbelow
  · rw [cut, min_eq_left habove.le]
    rfl
  · rw [cut, min_eq_right (by omega), max_eq_left hbelow.le]
    rfl
  · rw [cut_of_abs_le (abs_le.2 ⟨not_lt.1 hbelow, not_lt.1 habove⟩), BitVec.ofInt_toInt]

/-! ### Plain narrowing (00_scope.md R7) -/

theorem wrap_of_abs_le {x : Int} (h : |x| ≤ 32767) : wrap 16 x = x := by
  obtain ⟨hlo, hhi⟩ := abs_le.1 h
  rw [wrap_eq_toInt, bits]
  exact BitVec.toInt_ofInt_eq_self (by decide) (by omega) (by omega)

theorem ofInt_wrap_half (x : Int) :
    BitVec.ofInt 32 (wrap 16 x) = (BitVec.ofInt 16 x).signExtend 32 := by
  rw [wrap_eq_toInt]
  rfl

theorem ofInt_wrap_toInt (w : Word) :
    BitVec.ofInt 32 (wrap 16 w.toInt) = (w.setWidth 16).signExtend 32 := by
  rw [ofInt_wrap_half, ← setWidth_ofInt (by decide : 16 ≤ 32), BitVec.ofInt_toInt]

/-! ### Exact sums -/

/-- An operand times 32766 over 32768 is an amplitude that no narrowing changes (R155). -/
theorem abs_asr_scaled_le {x : Int} (h : |x| ≤ 32768) : |asr (x * 32766) 15| ≤ 32767 := by
  obtain ⟨hlo, hhi⟩ := abs_le.1 h
  obtain ⟨hfloor, hceil⟩ := asr_floor (x * 32766) 15
  exact abs_le.2 ⟨by omega, by omega⟩

/-- Both rotated sums of two operands by a cosine and a sine (R153, R154). -/
theorem abs_rotated_le {x y c sn : Int} (hx : |x| ≤ 32768) (hy : |y| ≤ 32768) (hc : |c| ≤ 32766)
    (hsn : |sn| ≤ 32766) : |x * c - y * sn| ≤ 2147352576 ∧ |x * sn + y * c| ≤ 2147352576 := by
  have hprod {u v : Int} (hu : |u| ≤ 32768) (hv : |v| ≤ 32766) : |u * v| ≤ 32768 * 32766 :=
    abs_mul u v ▸ mul_le_mul hu hv (abs_nonneg v) (by decide)
  constructor
  · linarith only [abs_sub (x * c) (y * sn), hprod hx hc, hprod hy hsn]
  · linarith only [abs_add_le (x * sn) (y * c), hprod hx hsn, hprod hy hc]

/-- The arithmetic right shift of the word of a sum that fits is the exact floor. -/
theorem toInt_sshiftRight_ofInt {x : Int} (h : |x| ≤ 2147352576) (q : Nat) :
    ((BitVec.ofInt 32 x).sshiftRight q).toInt = asr x q := by
  obtain ⟨hlo, hhi⟩ := abs_le.1 h
  rw [toInt_sshiftRight_eq_asr, BitVec.toInt_ofInt_eq_self (by decide) (by omega) (by omega)]

end Sys2Proof.Machine
end

section
/-! Each transform as an equation, and the bounds of its sums (43_transforms.md R152 to R154). -/
namespace Sys2Proof.Machine
open Sys2Proof.Claims

/-! ### CLARKE (R152) -/

/-- The three products of the rule are one. -/
theorem clarkeSum_eq (a b : Int) : clarkeSum a b = -(a + 2 * b) * 18918 := by
  rw [clarkeSum, ksq3]
  ring

theorem abs_clarkeSum_le {a b : Int} (ha : |a| ≤ 32768) (hb : |b| ≤ 32768) :
    |clarkeSum a b| ≤ 1859715072 := by
  obtain ⟨haLo, haHi⟩ := abs_le.1 ha
  obtain ⟨hbLo, hbHi⟩ := abs_le.1 hb
  rw [clarkeSum_eq]
  exact abs_le.2 ⟨by omega, by omega⟩

theorem ofInt_clarkeSum (a b : Int) : BitVec.ofInt 32 (clarkeSum a b) =
    -(BitVec.ofInt 32 a * 18918#32) - BitVec.ofInt 32 b * 18918#32 - BitVec.ofInt 32 b * 18918#32 := by
  have hksq3 : BitVec.ofInt 32 ksq3 = 18918#32 := rfl
  simp only [clarkeSum, ofInt_sub, BitVec.ofInt_neg, BitVec.ofInt_mul, hksq3]

theorem exec_clarke (s : State) : exec .clarke s = .next (withResults s (low16 s.opa)
    (cut (asr (clarkeSum (low16 s.opa) (low16 s.opb)) 15))) := by
  rw [← sat16n_eq_cut, ← op16_eq_low16, ← op16_eq_low16]
  rfl

/-! ### PARK and REVPARK (R153, R154) -/

theorem abs_trig_le (a : Int) : |(trig a).1| ≤ 32766 ∧ |(trig a).2| ≤ 32766 := by
  obtain ⟨hcosLo, hcosHi, hsinLo, hsinHi⟩ := trig_range a
  exact ⟨abs_le.2 ⟨hcosLo, hcosHi⟩, abs_le.2 ⟨hsinLo, hsinHi⟩⟩

theorem exec_park (s : State) : exec .park s = .next (withResults s
    (cut (asr (low16 s.opa * (trig (low16 s.opc)).1 - low16 s.opb * (trig (low16 s.opc)).2) 15))
    (cut (asr (low16 s.opa * (trig (low16 s.opc)).2 + low16 s.opb * (trig (low16 s.opc)).1) 15))) := by
  simp only [← sat16n_eq_cut, ← op16_eq_low16]
  rfl

theorem exec_revpark (s : State) : exec .revpark s = .next (withResults s
    (wrap 16 (asr
      (low16 s.opa * (trig (low16 s.opc)).1 + low16 s.opb * (trig (low16 s.opc)).2) 15))
    (wrap 16 (asr
      (low16 s.opb * (trig (low16 s.opc)).1 - low16 s.opa * (trig (low16 s.opc)).2) 15))) := by
  simp only [← op16_eq_low16]
  rfl

end Sys2Proof.Machine
end

section
/-! The statements of 43_transforms.md. -/
namespace Sys2Proof.Proofs
open Sys2Proof Sys2Proof.Machine Sys2Proof.Claims

/-- Settles O55. -/
theorem clarkeRotatesAndSaturates : Obligations.ClarkeRotatesAndSaturates := fun s =>
  ⟨⟨rfl, rfl, rfl, rfl⟩, _, floorShift_asr _ 15, by rw [exec_clarke, clarkeSum_eq]⟩

/-- Settles O56. -/
theorem parkRotatesAndSaturates : Obligations.ParkRotatesAndSaturates := fun s =>
  ⟨⟨rfl, rfl, rfl, rfl⟩, _, _, floorShift_asr _ 15, floorShift_asr _ 15, exec_park s⟩

/-- Settles O57: narrowing to 16 bits and writing 32 of them is a sign extension. -/
theorem revparkRotatesAndWraps : Obligations.RevparkRotatesAndWraps := fun _ =>
  ⟨⟨rfl, rfl, rfl, rfl⟩, _, _, floorShift_asr _ 15, floorShift_asr _ 15, by
    rw [exec_revpark, withResults, ofInt_wrap_half, ofInt_wrap_half]⟩

/-- Settles O58: the words of the datapath are the words of the exact sums, which fit, so the shift
loses nothing before the narrowing. -/
theorem transformSumsFitInThirtyTwoBits : Obligations.TransformSumsFitInThirtyTwoBits := by
  intro s a b cs c sn cut32 low park revpark
  have hcut {x : Int} (h : |x| ≤ 2147352576) :
      BitVec.ofInt 32 (cut (asr x 15)) = cut32 ((BitVec.ofInt 32 x).sshiftRight 15) := by
    rw [← toInt_sshiftRight_ofInt h, ofInt_cut_toInt]
  have hlow {x : Int} (h : |x| ≤ 2147352576) :
      BitVec.ofInt 32 (wrap 16 (asr x 15)) = low ((BitVec.ofInt 32 x).sshiftRight 15) := by
    rw [← toInt_sshiftRight_ofInt h, ofInt_wrap_toInt]
  have ha := abs_low16_le s.opa
  have hb := abs_low16_le s.opb
  obtain ⟨hc, hsn⟩ := abs_trig_le (low16 s.opc)
  have hclarke := abs_clarkeSum_le ha hb
  obtain ⟨hq, hd⟩ := abs_rotated_le ha hb hc hsn
  obtain ⟨hbeta, halpha⟩ := abs_rotated_le hb ha hc hsn
  rw [add_comm] at halpha
  refine ⟨hclarke, hq, hd, halpha, hbeta, ?_, ?_, ?_⟩
  · rw [exec_clarke, withResults, hcut (hclarke.trans (by decide)), ofInt_clarkeSum]
    rfl
  · rw [exec_park, withResults, hcut hq, hcut hd, ofInt_sub, BitVec.ofInt_add]
    simp only [BitVec.ofInt_mul]
    rfl
  · rw [exec_revpark, withResults, hlow halpha, hlow hbeta, ofInt_sub, BitVec.ofInt_add]
    simp only [BitVec.ofInt_mul]
    rfl

/-- Settles O59: a cut value is the integer of its register. -/
theorem clarkeAndParkNeverEmitTheMinimum : Obligations.ClarkeAndParkNeverEmitTheMinimum := by
  have hrange (x : Int) : -32767 ≤ (BitVec.ofInt 32 (cut x)).toInt ∧
      (BitVec.ofInt 32 (cut x)).toInt ≤ 32767 := by
    rw [toInt_ofInt_cut]
    exact cut_range x
  intro s
  exact ⟨⟨_, exec_clarke s, ofInt_low16 s.opa, hrange _⟩,
    _, exec_park s, (hrange _).1, (hrange _).2, hrange _⟩

/-- Settles O60: one factor is 0 and the other 32766, and the scaled operand needs no narrowing. -/
theorem transformsAtZeroAndAtAQuarterTurn : Obligations.TransformsAtZeroAndAtAQuarterTurn := by
  intro s
  have ha := abs_asr_scaled_le (abs_low16_le s.opa)
  have hb := abs_asr_scaled_le (abs_low16_le s.opb)
  refine ⟨fun h => ?_, fun h => ?_⟩
  · refine ⟨_, _, floorShift_asr _ 15, floorShift_asr _ 15, ?_, ?_⟩
    · rw [exec_park, h, trig_zero, mul_zero, mul_zero, sub_zero, zero_add,
        cut_of_abs_le ha, cut_of_abs_le hb]
    · rw [exec_revpark, h, trig_zero, mul_zero, mul_zero, sub_zero, add_zero,
        wrap_of_abs_le ha, wrap_of_abs_le hb]
  · have hneg := abs_asr_scaled_le (abs_neg (low16 s.opb) ▸ abs_low16_le s.opb)
    refine ⟨_, _, floorShift_asr _ 15, floorShift_asr _ 15, ?_⟩
    rw [exec_park, h, trig_quarterTurn, mul_zero, mul_zero, zero_sub, add_zero,
      ← neg_mul, cut_of_abs_le hneg, cut_of_abs_le ha]

end Sys2Proof.Proofs
end

section
/-!
Faults: when a command takes one, what fault entry does by FAULT, and that no result depends on
STATUS (60_exceptions.md R172 to R174).
-/
namespace Sys2Proof.Machine
open Sys2Proof.Claims

/-! ### Division by zero (R174) -/

theorem exec_of_dividesByZero {i : Instr} {s : State} (h : DividesByZero i s) :
    exec i s = .next (faulted 2#4 s) := by
  rcases h with ⟨q, rfl, hb⟩ | ⟨rfl, hb⟩ | ⟨qa, qb, qr, rfl, hconv⟩
  · rw [exec_qdiv, completeDivide_fault _ (toInt_eq_zero_iff.2 hb)]
  · rw [exec_qdivi, completeDivide_fault _ (toInt_eq_zero_iff.2 hb)]
  · rw [exec_gdiv, completeDivide_fault _ (convertsTo_iff.1 hconv)]

/-- Only the three dividing commands have a divisor, so every other one completes in every state. -/
theorem exec_of_not_dividesByZero {i : Instr} {s : State} (h : ¬ DividesByZero i s) :
    ∃ r0 r1, exec i s = .next { s with res0 := r0, res1 := r1 } := by
  cases i with
  | qdiv q =>
    have hd : s.opb.toInt ≠ 0 := fun hzero => h (.inl ⟨q, rfl, toInt_eq_zero_iff.1 hzero⟩)
    exact ⟨_, s.res1, (exec_qdiv q s).trans (completeDivide_next _ hd s)⟩
  | qdivi =>
    have hd : s.opb.toInt ≠ 0 := fun hzero => h (.inr (.inl ⟨rfl, toInt_eq_zero_iff.1 hzero⟩))
    exact ⟨_, s.res1, (exec_qdivi s).trans (completeDivide_next _ hd s)⟩
  | gdiv qa qb qr =>
    have hd : conv32 s.opb.toInt qb qr ≠ 0 := fun hzero =>
      h (.inr (.inr ⟨qa, qb, qr, rfl, convertsTo_iff.2 hzero⟩))
    exact ⟨_, s.res1, (exec_gdiv qa qb qr s).trans (completeDivide_next _ hd s)⟩
  | trig | clarke | park | revpark => exact ⟨_, _, rfl⟩
  | isqrt | fsqrt => exact ⟨_, s.res1, rfl⟩
  | tofix | fromfix | qconv | qadd | qsub | qmul | qaddi | qsubi | qmuli | gadd | gsub | gmul =>
    exact ⟨_, s.res1, completeFixed_eq _ s⟩

/-! ### Fault entry and STATUS (R172) -/

theorem raiseFault_of_set {s : State} (c : FaultCause) (h : s.fault = true) : raiseFault c s = s :=
  if_pos h

theorem raiseFault_of_clear {s : State} (c : FaultCause) (h : s.fault = false) :
    raiseFault c s = { s with fault := true, cause := causeCode c } :=
  if_neg (Bool.eq_false_iff.1 h)

/-- The results of a command are the same whatever STATUS holds: its operands decide them, and
whether it faults. -/
theorem exec_results_of_status (i : Instr) (s : State) (f : Bool) (c : BitVec 4) :
    ∃ t u, exec i s = .next t ∧ exec i { s with fault := f, cause := c } = .next u ∧
      u.res0 = t.res0 ∧ u.res1 = t.res1 := by
  rcases exec_shape i with ⟨r, hexec⟩ | ⟨n, d, hexec⟩ | ⟨-, r0, r1, hexec⟩
  · exact ⟨_, _, hexec s, hexec _, rfl, rfl⟩
  · rw [hexec, hexec, completeDivide_eq, completeDivide_eq]
    split
    · exact ⟨_, _, rfl, rfl, by simp⟩
    · exact ⟨_, _, rfl, rfl, rfl, rfl⟩
  · exact ⟨_, _, hexec s, hexec _, rfl, rfl⟩

theorem exec_status {i : Instr} {s t : State} (h : exec i s = .next t) :
    (t.fault = s.fault ∧ t.cause = s.cause) ∨ t = raiseFault .divZero s := by
  rcases exec_cases i s with ⟨r0, r1, hexec⟩ | hexec
  · obtain rfl := Host.Outcome.next.inj (hexec.symm.trans h)
    exact .inl ⟨rfl, rfl⟩
  · exact .inr (Host.Outcome.next.inj (h.symm.trans hexec))

/-! ### A CMD write with its whole command -/

/-- A CMD write ends in the state its word leads to, run with the word in CMD and the write answered
(20_memory.md R50). -/
theorem performWhole_write_cmd {w : Word} {s t : State}
    (hrun : runWord w { s with cmd := w, inFlight := none, replies := .done :: s.replies } =
      .next t) :
    performWhole (.write (Config.base + 0x08) .word w) s = t := by
  have hstart : performAccess (.write (Config.base + 0x08) .word w) s = startCommand w s :=
    performAccess_write_reg .cmd w s
  rw [performWhole, hstart]
  exact finishInFlight_of_runWord (startCommand_inFlight s w) hrun

end Sys2Proof.Machine
end

section
/-! The statements of 60_exceptions.md. -/
namespace Sys2Proof.Proofs
open Sys2Proof Sys2Proof.Machine Sys2Proof.Claims

/-- Settles O10: the word is stored and run, and a word that is not legal does not decode. -/
theorem cmdWriteOfIllegalWordFaults : Obligations.CmdWriteOfIllegalWordFaults := by
  intro s w hillegal
  obtain ⟨e, herr⟩ := decodeWord_isError_iff.2 (legalWord_iff_decodes.not.1 hillegal)
  exact performWhole_write_cmd (runWord_of_error herr _)

/-- Settles O27: a command that does not divide by zero writes results only. -/
theorem onlyDividesFaultAndAFaultChangesOnlyStatus :
    Obligations.OnlyDividesFaultAndAFaultChangesOnlyStatus := by
  intro i s
  by_cases hzero : DividesByZero i s
  · exact ⟨_, exec_of_dividesByZero hzero, fun _ => rfl, fun hnot => absurd hzero hnot⟩
  · obtain ⟨r0, r1, hexec⟩ := exec_of_not_dividesByZero hzero
    exact ⟨_, hexec, fun h => absurd h hzero, fun _ => ⟨rfl, rfl⟩⟩

/-- Settles O28. -/
theorem firstFaultIsKeptAndCommandsGoOn : Obligations.FirstFaultIsKeptAndCommandsGoOn := by
  refine ⟨fun s c => ⟨raiseFault_of_set c, fun hclear => ?_⟩, fun i s f c => ?_⟩
  · rw [raiseFault_of_clear c hclear]
    cases c with
    | illegalCmd => rfl
    | divZero => rfl
  · obtain ⟨t, u, hexec, hexec', hres0, hres1⟩ := exec_results_of_status i s f c
    exact ⟨t, u, hexec, hexec', hres0, hres1, exec_status hexec⟩

end Sys2Proof.Proofs
end

section
/-!
Reset and the state it leads to: what every offset reads after it, the step that carries it out, and the
step of a block that has nothing to do (70_reset_and_hazards.md R190, R192; 60_exceptions.md R185).
-/
namespace Sys2Proof.Machine

/-! ### What the registers read after reset -/

theorem readReg_id_eq (s : State) : readReg .id s = 0x4C574D01#32 := rfl

theorem readReg_resetBlock_of_ne_id {r : Reg} (hr : r ≠ .id) (s : State) :
    readReg r (resetBlock s) = 0#32 := by
  cases r with
  | id => exact absurd rfl hr
  | status => rw [readReg, statusWord_eq, resetBlock_cause, resetBlock_fault]; rfl
  | cmd | opa | opb | opc | res0 | res1 => rfl

theorem readOffset_id (s : State) : readOffset 0x00 s = 0x4C574D01#32 :=
  (readOffset_offset .id s).trans (readReg_id_eq s)

/-- Only ID reads nonzero: another offset is reserved, or reaches a register that reset clears (R190,
20_memory.md R44). -/
theorem readOffset_resetBlock_of_ne_id {off : Nat} (hoff : off ≠ 0x00) (s : State) :
    readOffset off (resetBlock s) = 0#32 := by
  rcases hreg : regAt off with _ | r
  · exact readOffset_of_regAt_none _ hreg
  · obtain rfl := (regAt_eq_some_iff off r).1 hreg
    have hr : r ≠ .id := fun h => hoff (congrArg Reg.offset h)
    rw [readOffset_offset, readReg_resetBlock_of_ne_id hr]

/-- The state after reset is one that a reset leads to. -/
theorem resetBlock_reset : resetBlock State.reset = State.reset := rfl

/-! ### The step -/

theorem step_of_reset {s : State} {rest : List HostEvent} (hin : s.inputs = .reset :: rest) :
    step s = .next (resetBlock { s with inputs := rest }) := by
  rw [step, tick, hin]

/-- With nothing arriving, in flight or held, the block waits (R192, 60_exceptions.md R185). -/
theorem step_of_runEnded {s : State} (hended : RunEnded s) : step s = .next s := by
  obtain ⟨hin, hheld, hflight⟩ := hended
  rw [step_of_quiet hin, advance, hflight, performHeld, hheld]

end Sys2Proof.Machine
end

section
/-! The statements of 70_reset_and_hazards.md. -/
namespace Sys2Proof.Proofs
open Sys2Proof Sys2Proof.Machine

/-- Settles O22: the step is `resetBlock`, whatever the state was. -/
theorem resetGivesTheResetValues : Obligations.ResetGivesTheResetValues := by
  intro s rest hin
  exact ⟨_, step_of_reset hin, resetBlock_inputs _, readOffset_id _,
    fun _ hoff => readOffset_resetBlock_of_ne_id hoff _,
    resetBlock_fault _, resetBlock_cause _, resetBlock_cmd _, resetBlock_opa _, resetBlock_opb _,
    resetBlock_opc _, resetBlock_res0 _, resetBlock_res1 _, resetBlock_inFlight _,
    resetBlock_held _⟩

/-- Settles O23: what reset leads to reads the reset values, and has nothing to do. -/
theorem resetStateHasTheResetValuesAndWaits :
    Obligations.ResetStateHasTheResetValuesAndWaits := by
  have hread : ∀ off, off ≠ 0x00 → readOffset off State.reset = 0#32 := fun off hoff => by
    rw [← resetBlock_reset, readOffset_resetBlock_of_ne_id hoff]
  exact ⟨readOffset_id _, hread, rfl, rfl, step_of_runEnded ⟨rfl, rfl, rfl⟩⟩

/-- Settles O24: `BlockInv` holds after any reset. -/
theorem resetStateMeetsTheInvariant : Obligations.ResetStateMeetsTheInvariant := by
  have hinv : BlockInv (resetBlock State.reset) := blockInv_resetBlock _
  rwa [resetBlock_reset] at hinv

end Sys2Proof.Proofs
end
